-- ==== Sys2Proof/Word.lean ====
section
/-! DEFINITION. The word types of the CHIP-8 CORE (10_state.md R20, R23, R24; 00_scope.md R5, R6). -/

namespace Sys2Proof

/-- An 8-bit unsigned value: a general register, a timer, a memory byte (R20, R28, R50). -/
abbrev Byte := BitVec 8

/-- A 16-bit unsigned value: `I`, `pc`, a call-stack entry, the instruction word (R23, R24, R26, R80). -/
abbrev Word := BitVec 16

/-- The number of a general register, 0 to 15 (R20: "A register is named by a 4-bit field"). -/
abbrev RegIdx := Fin 16

end Sys2Proof
end

