-- ==== Sys2Proof/Machine/Flags.lean ====
section
/-! DEFINITION. The flag computations: a flag is the full byte 0x00 or 0x01 in VF (10_state.md R21). -/

namespace Sys2Proof.Machine

/-- R21: "a flag write stores the full byte 0x00 or 0x01". -/
def flagByte (b : Bool) : Byte := if b then 0x01 else 0x00

/-- 8XY4: carry out of bit 7, `1 if s > 255` (R147). -/
def carryFlag (a b : Byte) : Byte := flagByte (decide (a.toNat + b.toNat > 255))

/-- 8XY5 with `(a, b)`, 8XY7 with `(b, a)`: strictly greater (R148, R149). -/
def greaterFlag (a b : Byte) : Byte := flagByte (decide (a.toNat > b.toNat))

/-- 8XY6: the bit shifted out, bit 0 of the old value (R160). -/
def shiftRightFlag (a : Byte) : Byte := flagByte (a.getLsbD 0)

/-- 8XYE: the bit shifted out, bit 7 of the old value (R161). -/
def shiftLeftFlag (a : Byte) : Byte := flagByte (a.getLsbD 7)

/-- FX1E: 1 when the sum passes 0xFF; otherwise 0 or the old VF, by the OPEN parameter `FX1E_ELSE_CLEARS_VF` (R171). -/
def indexFlag (elseClears : Bool) (sum : Nat) (oldVF : Byte) : Byte :=
  if sum > 255 then 0x01 else if elseClears then 0x00 else oldVF

end Sys2Proof.Machine
end

