-- ==== Sys2Proof/Syntax.lean ====
section
/-! DEFINITION. The instructions: one constructor per row of spec/opcode_table.json (30_encoding.md R85), its
operand fields those of the row's shape (R83). -/

namespace Sys2Proof

/-- The 34 instructions (R85). `x`, `y` number a general register, `n`, `nn`, `nnn` are the unsigned immediates of
4, 8 and 12 bits (R82). -/
inductive Instr where
  /-- 00E0 `CLS` (R190). -/
  | cls
  /-- 00EE `RET` (R120). -/
  | ret
  /-- 1NNN `JP NNN` (R121). -/
  | jp (nnn : BitVec 12)
  /-- 2NNN `CALL NNN` (R122). -/
  | call (nnn : BitVec 12)
  /-- 3XNN `SE VX, NN` (R123). -/
  | seImm (x : RegIdx) (nn : BitVec 8)
  /-- 4XNN `SNE VX, NN` (R124). -/
  | sneImm (x : RegIdx) (nn : BitVec 8)
  /-- 5XY0 `SE VX, VY` (R125). -/
  | seReg (x y : RegIdx)
  /-- 6XNN `LD VX, NN` (R141). -/
  | ldImm (x : RegIdx) (nn : BitVec 8)
  /-- 7XNN `ADD VX, NN` (R142). -/
  | addImm (x : RegIdx) (nn : BitVec 8)
  /-- 8XY0 `LD VX, VY` (R143). -/
  | ldReg (x y : RegIdx)
  /-- 8XY1 `OR VX, VY` (R144). -/
  | orReg (x y : RegIdx)
  /-- 8XY2 `AND VX, VY` (R145). -/
  | andReg (x y : RegIdx)
  /-- 8XY3 `XOR VX, VY` (R146). -/
  | xorReg (x y : RegIdx)
  /-- 8XY4 `ADD VX, VY` (R147). -/
  | addReg (x y : RegIdx)
  /-- 8XY5 `SUB VX, VY` (R148). -/
  | sub (x y : RegIdx)
  /-- 8XY6 `SHR VX`; `y` is decoded and ignored (R160, R90). -/
  | shr (x y : RegIdx)
  /-- 8XY7 `SUBN VX, VY` (R149). -/
  | subn (x y : RegIdx)
  /-- 8XYE `SHL VX`; `y` is decoded and ignored (R161, R90). -/
  | shl (x y : RegIdx)
  /-- 9XY0 `SNE VX, VY` (R126). -/
  | sneReg (x y : RegIdx)
  /-- ANNN `LD I, NNN` (R170). -/
  | ldI (nnn : BitVec 12)
  /-- BNNN `JP VX, NNN`; `x` is the top digit of `nnn` (R127, R91). -/
  | jpV (x : RegIdx) (nnn : BitVec 12)
  /-- CXNN `RND VX, NN` (R200). -/
  | rnd (x : RegIdx) (nn : BitVec 8)
  /-- DXYN `DRW VX, VY, N` (R191). -/
  | drw (x y : RegIdx) (n : BitVec 4)
  /-- EX9E `SKP VX` (R201). -/
  | skp (x : RegIdx)
  /-- EXA1 `SKNP VX` (R202). -/
  | sknp (x : RegIdx)
  /-- FX07 `LD VX, DT` (R203). -/
  | ldVDt (x : RegIdx)
  /-- FX0A `LD VX, K` (R204). -/
  | ldVK (x : RegIdx)
  /-- FX15 `LD DT, VX` (R205). -/
  | ldDtV (x : RegIdx)
  /-- FX18 `LD ST, VX` (R206). -/
  | ldStV (x : RegIdx)
  /-- FX1E `ADD I, VX` (R171). -/
  | addI (x : RegIdx)
  /-- FX29 `LD F, VX` (R172). -/
  | ldF (x : RegIdx)
  /-- FX33 `LD B, VX` (R174). -/
  | ldB (x : RegIdx)
  /-- FX55 `LD [I], VX` (R175). -/
  | ldMemV (x : RegIdx)
  /-- FX65 `LD VX, [I]` (R176). -/
  | ldVMem (x : RegIdx)
  deriving DecidableEq, Repr

end Sys2Proof
end

