-- ==== Sys2Proof/WellFormed.lean ====
section
/-! DEFINITION. Which instruction terms have an encoding. Every operand's range is in its type; the one relation
between operands is BNNN's (30_encoding.md R83, R91). -/

namespace Sys2Proof

/-- The top digit of a 12-bit immediate, bits 11 to 8 of the word (R81). -/
def topDigit (nnn : BitVec 12) : RegIdx := Fin.ofNat 16 (nnn.toNat / 256)

/-- R91: "`JP VX, NNN` (BNNN) is well-formed only when X equals the top digit of NNN, since the two share bits 11
to 8 of the word". Every other term is well-formed. -/
def Instr.wf : Instr → Bool
  | .jpV x nnn => x == topDigit nnn
  | .cls | .ret | .jp _ | .call _ | .seImm _ _ | .sneImm _ _ | .seReg _ _ | .ldImm _ _ | .addImm _ _ | .ldReg _ _
  | .orReg _ _ | .andReg _ _ | .xorReg _ _ | .addReg _ _ | .sub _ _ | .shr _ _ | .subn _ _ | .shl _ _ | .sneReg _ _
  | .ldI _ | .rnd _ _ | .drw _ _ _ | .skp _ | .sknp _ | .ldVDt _ | .ldVK _ | .ldDtV _ | .ldStV _ | .addI _ | .ldF _
  | .ldB _ | .ldMemV _ | .ldVMem _ => true

end Sys2Proof
end

