-- ==== Sys2Proof/Decode.lean ====
section
/-! DEFINITION. The decoder, total on any word and any bytes and rejecting by name; the encoder, written from the
masks and matches of the opcode table; the table itself (30_encoding.md R80 to R90, 40_fetch_decode.md R104 to R106). -/

namespace Sys2Proof

/-- The six fields "cut from every instruction word" (R81, R104). -/
structure Fields where
  /-- `OP = iw[15:12]` -/
  op : BitVec 4
  /-- `X = iw[11:8]` -/
  x : RegIdx
  /-- `Y = iw[7:4]` -/
  y : RegIdx
  /-- `N = iw[3:0]` -/
  n : BitVec 4
  /-- `NN = iw[7:0]` -/
  nn : BitVec 8
  /-- `NNN = iw[11:0]` -/
  nnn : BitVec 12
  deriving DecidableEq, Repr

/-- A four-bit field used as a register number (R82: "`X` and `Y` always select `V[X]` and `V[Y]`"). -/
def regIdxOf (d : BitVec 4) : RegIdx := ⟨d.toNat, d.isLt⟩

/-- R81, R104: all six fields, whatever the instruction. -/
def fieldsOf (iw : Word) : Fields where
  op  := iw.extractLsb' 12 4
  x   := regIdxOf (iw.extractLsb' 8 4)
  y   := regIdxOf (iw.extractLsb' 4 4)
  n   := iw.extractLsb' 0 4
  nn  := iw.extractLsb' 0 8
  nnn := iw.extractLsb' 0 12

/-- Group 0 selects on the whole word (R84); every other `0NNN` is unknown (R86, R87). -/
def decodeGroup0 (f : Fields) : Option Instr :=
  if f.nnn = 0x0E0 then some .cls
  else if f.nnn = 0x0EE then some .ret
  else none

/-- Group 8 selects on `N` (R84). -/
def decodeGroup8 (f : Fields) : Option Instr :=
  if f.n = 0x0 then some (.ldReg f.x f.y)
  else if f.n = 0x1 then some (.orReg f.x f.y)
  else if f.n = 0x2 then some (.andReg f.x f.y)
  else if f.n = 0x3 then some (.xorReg f.x f.y)
  else if f.n = 0x4 then some (.addReg f.x f.y)
  else if f.n = 0x5 then some (.sub f.x f.y)
  else if f.n = 0x6 then some (.shr f.x f.y)
  else if f.n = 0x7 then some (.subn f.x f.y)
  else if f.n = 0xE then some (.shl f.x f.y)
  else none

/-- Group E selects on `NN` (R84). -/
def decodeGroupE (f : Fields) : Option Instr :=
  if f.nn = 0x9E then some (.skp f.x)
  else if f.nn = 0xA1 then some (.sknp f.x)
  else none

/-- Group F selects on `NN` (R84). -/
def decodeGroupF (f : Fields) : Option Instr :=
  if f.nn = 0x07 then some (.ldVDt f.x)
  else if f.nn = 0x0A then some (.ldVK f.x)
  else if f.nn = 0x15 then some (.ldDtV f.x)
  else if f.nn = 0x18 then some (.ldStV f.x)
  else if f.nn = 0x1E then some (.addI f.x)
  else if f.nn = 0x29 then some (.ldF f.x)
  else if f.nn = 0x33 then some (.ldB f.x)
  else if f.nn = 0x55 then some (.ldMemV f.x)
  else if f.nn = 0x65 then some (.ldVMem f.x)
  else none

/-- R84, R105: dispatch on the opcode group and, in six groups, a secondary selector; `none` is the unknown arm
(R106). Groups 5 and 9 with a non-zero low digit are unknown (R88). -/
def decodeFields (f : Fields) : Option Instr :=
  if f.op = 0x0 then decodeGroup0 f
  else if f.op = 0x1 then some (.jp f.nnn)
  else if f.op = 0x2 then some (.call f.nnn)
  else if f.op = 0x3 then some (.seImm f.x f.nn)
  else if f.op = 0x4 then some (.sneImm f.x f.nn)
  else if f.op = 0x5 then (if f.n = 0x0 then some (.seReg f.x f.y) else none)
  else if f.op = 0x6 then some (.ldImm f.x f.nn)
  else if f.op = 0x7 then some (.addImm f.x f.nn)
  else if f.op = 0x8 then decodeGroup8 f
  else if f.op = 0x9 then (if f.n = 0x0 then some (.sneReg f.x f.y) else none)
  else if f.op = 0xA then some (.ldI f.nnn)
  else if f.op = 0xB then some (.jpV f.x f.nnn)
  else if f.op = 0xC then some (.rnd f.x f.nn)
  else if f.op = 0xD then some (.drw f.x f.y f.n)
  else if f.op = 0xE then decodeGroupE f
  else decodeGroupF f

/-- R89: total on all 65536 words, reading nothing but `iw`; `none` is `Unknown`. -/
def decodeWord (iw : Word) : Option Instr := decodeFields (fieldsOf iw)

/-- R57: "`iw = Mem[pc] * 256 + Mem[pc+1]`", the byte at the lower address is `iw[15:8]`. -/
def joinBytes (hi lo : Byte) : Word := BitVec.ofNat 16 (hi.toNat * 256 + lo.toNat)

/-- Why bytes are not an instruction. -/
inductive DecodeError where
  /-- Fewer than two bytes: an instruction is always two (R80). -/
  | truncated
  /-- The word matches no row of the table: `UnknownInstruction` (R86). -/
  | unknownInstruction (iw : Word)
  deriving DecidableEq, Repr

/-- The decoder on bytes: the instruction and the bytes after it, or a rejection by name (R80, R89). -/
def decode : List Byte → Except DecodeError (Instr × List Byte)
  | hi :: lo :: rest =>
    match decodeWord (joinBytes hi lo) with
    | some i => .ok (i, rest)
    | none => .error (.unknownInstruction (joinBytes hi lo))
  | [_] => .error .truncated
  | [] => .error .truncated

/-- The two bytes of a word as memory holds them, lower address first (R57, R80). -/
def wordBytes (iw : Word) : List Byte := [iw.extractLsb' 8 8, iw.extractLsb' 0 8]

/-- One row of the opcode table: its mnemonic as spec/opcode_table.json spells it, its mask and its match (R85). -/
structure OpcodeRow where
  mnemonic : String
  mask : Word
  bits : Word
  deriving DecidableEq, Repr

/-- R85: "A word `iw` is the instruction of a row exactly when `(iw & mask) == match`." -/
abbrev OpcodeRow.Matches (r : OpcodeRow) (iw : Word) : Prop := iw &&& r.mask = r.bits

/-- The row each instruction stands in (R85, column by column). -/
def Instr.row : Instr → OpcodeRow
  | .cls        => ⟨"CLS", 0xFFFF, 0x00E0⟩
  | .ret        => ⟨"RET", 0xFFFF, 0x00EE⟩
  | .jp _       => ⟨"JP_NNN", 0xF000, 0x1000⟩
  | .call _     => ⟨"CALL_NNN", 0xF000, 0x2000⟩
  | .seImm _ _  => ⟨"SE_VX__NN", 0xF000, 0x3000⟩
  | .sneImm _ _ => ⟨"SNE_VX__NN", 0xF000, 0x4000⟩
  | .seReg _ _  => ⟨"SE_VX__VY", 0xF00F, 0x5000⟩
  | .ldImm _ _  => ⟨"LD_VX__NN", 0xF000, 0x6000⟩
  | .addImm _ _ => ⟨"ADD_VX__NN", 0xF000, 0x7000⟩
  | .ldReg _ _  => ⟨"LD_VX__VY", 0xF00F, 0x8000⟩
  | .orReg _ _  => ⟨"OR_VX__VY", 0xF00F, 0x8001⟩
  | .andReg _ _ => ⟨"AND_VX__VY", 0xF00F, 0x8002⟩
  | .xorReg _ _ => ⟨"XOR_VX__VY", 0xF00F, 0x8003⟩
  | .addReg _ _ => ⟨"ADD_VX__VY", 0xF00F, 0x8004⟩
  | .sub _ _    => ⟨"SUB_VX__VY", 0xF00F, 0x8005⟩
  | .shr _ _    => ⟨"SHR_VX", 0xF00F, 0x8006⟩
  | .subn _ _   => ⟨"SUBN_VX__VY", 0xF00F, 0x8007⟩
  | .shl _ _    => ⟨"SHL_VX", 0xF00F, 0x800E⟩
  | .sneReg _ _ => ⟨"SNE_VX__VY", 0xF00F, 0x9000⟩
  | .ldI _      => ⟨"LD_I__NNN", 0xF000, 0xA000⟩
  | .jpV _ _    => ⟨"JP_VX__NNN", 0xF000, 0xB000⟩
  | .rnd _ _    => ⟨"RND_VX__NN", 0xF000, 0xC000⟩
  | .drw _ _ _  => ⟨"DRW_VX__VY__N", 0xF000, 0xD000⟩
  | .skp _      => ⟨"SKP_VX", 0xF0FF, 0xE09E⟩
  | .sknp _     => ⟨"SKNP_VX", 0xF0FF, 0xE0A1⟩
  | .ldVDt _    => ⟨"LD_VX__DT", 0xF0FF, 0xF007⟩
  | .ldVK _     => ⟨"LD_VX__K", 0xF0FF, 0xF00A⟩
  | .ldDtV _    => ⟨"LD_DT__VX", 0xF0FF, 0xF015⟩
  | .ldStV _    => ⟨"LD_ST__VX", 0xF0FF, 0xF018⟩
  | .addI _     => ⟨"ADD_I__VX", 0xF0FF, 0xF01E⟩
  | .ldF _      => ⟨"LD_F__VX", 0xF0FF, 0xF029⟩
  | .ldB _      => ⟨"LD_B__VX", 0xF0FF, 0xF033⟩
  | .ldMemV _   => ⟨"LD__I___VX", 0xF0FF, 0xF055⟩
  | .ldVMem _   => ⟨"LD_VX___I", 0xF0FF, 0xF065⟩

/-- The operand bits of an instruction's word, each field at its place (R81, R83). BNNN's `x` shares the bits of
`nnn`'s top digit, so only `nnn` is laid down. -/
def Instr.operandBits : Instr → Nat
  | .cls | .ret => 0
  | .jp nnn | .call nnn | .ldI nnn | .jpV _ nnn => nnn.toNat
  | .seImm x nn | .sneImm x nn | .ldImm x nn | .addImm x nn | .rnd x nn => x.val * 256 + nn.toNat
  | .seReg x y | .ldReg x y | .orReg x y | .andReg x y | .xorReg x y | .addReg x y | .sub x y | .shr x y
  | .subn x y | .shl x y | .sneReg x y => x.val * 256 + y.val * 16
  | .drw x y n => x.val * 256 + y.val * 16 + n.toNat
  | .skp x | .sknp x | .ldVDt x | .ldVK x | .ldDtV x | .ldStV x | .addI x | .ldF x | .ldB x | .ldMemV x
  | .ldVMem x => x.val * 256

/-- The word of a well-formed instruction: its row's match with the operand fields in the unmasked bits (R85). -/
def encode (i : Instr) : Word := BitVec.ofNat 16 (i.row.bits.toNat + i.operandBits)

/-- The instruction the decoder reads from a table word of `nbits` bits, laid out big-endian as memory holds it;
bits above `nbits` are 0 (the host's numbering: bit 0 is the least significant bit of the first 16-bit word). -/
def decodeTableWord (nbits w : Nat) : Option Instr :=
  match decode (wordBytes (BitVec.ofNat 16 (w % 2 ^ nbits))) with
  | .ok (i, _) => some i
  | .error _ => none

end Sys2Proof
end

