-- ==== Sys2Proof/Config.lean ====
section
/-! DEFINITION. The three OPEN parameters of 92_eei_decisions.md as plain data that a state carries, and the free inputs
of the environment. The parameters 00_scope.md R5 fixes are written as the literals the rules use: `MEM_SIZE` 4096,
`PROGRAM_BASE` 0x200, `FONT_BASE` 0x050, `FB_W` 64, `FB_H` 32. -/

namespace Sys2Proof.Config

/-- Five bytes, one a row, top row first (R56). -/
abbrev Glyph := Vector Byte 5

/-- "a fixed 80-byte table (16 glyphs × 5 bytes)" (R56). -/
abbrev FontTable := Vector Glyph 16

/-- The three parameters the spec leaves OPEN and "the model takes as arguments" (92_eei_decisions.md D2, D9, D14).
A state carries them, so that a statement about every state holds for every value of them. -/
structure Params where
  /-- `STACK_CAPACITY`, at least 16 (D2). -/
  stackCapacity : Nat
  /-- `FONT_TABLE` (D14). -/
  fontTable : FontTable
  /-- `FX1E_ELSE_CLEARS_VF` (D9). -/
  fx1eElseClearsVF : Bool
  deriving DecidableEq, Repr

/-- The one bound the spec puts on the parameters: "capacity ≥ 16" (R26). -/
abbrev Params.Valid (p : Params) : Prop := 16 ≤ p.stackCapacity

/-- Glyphs 0 to 7 of the default font (R56). PRESUMED: the spec marks the bytes as general knowledge; log entry 2; unsafe. -/
def defaultFontLow : Vector Glyph 8 :=
  #v[#v[0xF0, 0x90, 0x90, 0x90, 0xF0],
     #v[0x20, 0x60, 0x20, 0x20, 0x70],
     #v[0xF0, 0x10, 0xF0, 0x80, 0xF0],
     #v[0xF0, 0x10, 0xF0, 0x10, 0xF0],
     #v[0x90, 0x90, 0xF0, 0x10, 0x10],
     #v[0xF0, 0x80, 0xF0, 0x10, 0xF0],
     #v[0xF0, 0x80, 0xF0, 0x90, 0xF0],
     #v[0xF0, 0x10, 0x20, 0x40, 0x40]]

/-- Glyphs 8 to F of the default font (R56). PRESUMED: log entry 2; unsafe. -/
def defaultFontHigh : Vector Glyph 8 :=
  #v[#v[0xF0, 0x90, 0xF0, 0x90, 0xF0],
     #v[0xF0, 0x90, 0xF0, 0x10, 0xF0],
     #v[0xF0, 0x90, 0xF0, 0x90, 0x90],
     #v[0xE0, 0x90, 0xE0, 0x90, 0xE0],
     #v[0xF0, 0x80, 0x80, 0x80, 0xF0],
     #v[0xE0, 0x90, 0x90, 0x90, 0xE0],
     #v[0xF0, 0x80, 0xF0, 0x80, 0xF0],
     #v[0xF0, 0x80, 0xF0, 0x80, 0x80]]

/-- The default of `FONT_TABLE` (R56, D14). -/
def defaultFont : FontTable := defaultFontLow ++ defaultFontHigh

/-- The defaults the spec recommends: capacity 16 (D2), the customary font (D14), else-branch clears (D9). -/
def Params.default : Params :=
  { stackCapacity := 16, fontTable := defaultFont, fx1eElseClearsVF := true }

/-- How many `TimerTick` events fall before the `n`-th freely driven turn: any number (R236, D22). A free value. -/
opaque freeTicks : Nat → Nat

/-- The key snapshot of the `n`-th freely driven turn: "any 16-bit value is legal" (R31, D23). A free value. -/
opaque freeKeys : Nat → BitVec 16

/-- The random byte of the `n`-th freely driven turn: "any value 0 to 255, under no law" (R32, D16). A free value. -/
opaque freeRand8 : Nat → Byte

end Sys2Proof.Config
end

