-- ==== Sys2Proof/Machine/State.lean ====
section
/-! DEFINITION. The architectural state of the CORE as plain data (10_state.md R20 to R37), the inputs and the output
of a step, the memory's canonical form, the fault and refusal reasons, and the state right after reset. -/

namespace Sys2Proof.Machine

/-- The framebuffer `FB[y][x]`: 32 rows of 64 pixels, `true` is on (R29). -/
abbrev Framebuffer := Vector (Vector Bool 64) 32

/-- The 4096-byte memory (R50) as the bytes that differ from what an unlisted address reads as. -/
abbrev Memory := List Host.Cell

/-- What an address no cell lists reads as: the reset contents (R53, R250), the font table at 0x050 to 0x09F and
0x00 elsewhere. -/
def Memory.unlisted (font : Config.FontTable) (a : Nat) : Byte :=
  if h : 0x050 ≤ a ∧ a < 0x050 + 80 then
    (font[(a - 0x050) / 5]'(by omega))[(a - 0x050) % 5]'(by omega)
  else 0x00

/-- Addresses strictly rising from `low` on, each below 4096, and no cell equal to what it would read as unlisted. -/
def Memory.wfFrom (font : Config.FontTable) : Nat → Memory → Bool
  | _, [] => true
  | low, (a, b) :: m =>
    decide (low ≤ a) && decide (a < 4096) && decide (b ≠ Memory.unlisted font a) && Memory.wfFrom font (a + 1) m

/-- The canonical form of memory under a font table. -/
def Memory.wf (font : Config.FontTable) (m : Memory) : Bool := Memory.wfFrom font 0 m

/-- The six faults, all of them (R220). Each is fatal and leaves the machine halted (R226, R227). -/
inductive FaultCause where
  /-- `pc ≥ 4095` at the start of a step (R221). -/
  | fetchOutOfBounds
  /-- A word that matches no row (R222). -/
  | unknownInstruction
  /-- 2NNN with a full stack (R223). -/
  | stackOverflow
  /-- 00EE with an empty stack (R224). -/
  | stackUnderflow
  /-- DXYN, FX33, FX55, FX65 past address 4095 (R225). -/
  | dataAccessOutOfBounds
  /-- EX9E, EXA1 with `V[X] > 15` (R228). -/
  | keyIndexOutOfRange
  deriving DecidableEq, Repr

/-- The numeric codes of R220's table (D10). -/
def FaultCause.code : FaultCause → Nat
  | .fetchOutOfBounds => 1
  | .unknownInstruction => 2
  | .stackOverflow => 3
  | .stackUnderflow => 4
  | .dataAccessOutOfBounds => 5
  | .keyIndexOutOfRange => 6

/-- The fault record (R33). -/
structure FaultRecord where
  cause : FaultCause
  /-- The instruction word, absent for `FetchOutOfBounds`. -/
  iw : Option Word
  /-- "the address the faulting instruction was, or was to be, fetched from" -/
  faultPc : Word
  /-- The first out-of-range address, or the offending `V[X]`; absent otherwise. -/
  addr : Option Nat
  deriving DecidableEq, Repr

/-- What a step returns: `Ok(dirty)` or `Fault(record)`, never anything else (R107, R34). -/
inductive StepResult where
  | ok (dirty : Bool)
  | fault (record : FaultRecord)
  deriving DecidableEq, Repr

/-- One turn of the external driver: the `TimerTick` events that fall before a step, then the arguments of the step
(R11, R110). -/
structure Turn where
  ticks : Nat
  keys : BitVec 16
  rand8 : Byte
  deriving DecidableEq, Repr

/-- Everything the spec gives the machine (R35, R36), the OPEN parameters, and the model's own fields: the sampled
inputs, the last step's result and the driver's turns still to come. -/
structure State where
  /-- `STACK_CAPACITY`, `FONT_TABLE`, `FX1E_ELSE_CLEARS_VF` (D2, D14, D9); no event changes them. -/
  params : Config.Params
  /-- `V[0]` to `V[15]` (R20); `V[15]` is VF (R21). -/
  v : Vector Byte 16
  /-- The index register `I` (R23). -/
  i : Word
  /-- The program counter (R24). -/
  pc : Word
  /-- The call stack `stack[0]` to `stack[STACK_CAPACITY-1]` (R26). -/
  stack : List Word
  /-- The stack pointer: the entries in use (R27). -/
  sp : Nat
  /-- The delay timer `DT` (R28). -/
  dt : Byte
  /-- The sound timer `ST` (R28). -/
  st : Byte
  /-- The framebuffer (R29). -/
  fb : Framebuffer
  /-- Memory (R50). -/
  mem : Memory
  /-- 1 after any fault (R33). -/
  halted : Bool
  /-- The fault record, absent while the machine runs (R33). -/
  fault : Option FaultRecord
  /-- MODEL'S OWN: the snapshot `K` the current or last step was given (R31); every step overwrites it. -/
  keys : BitVec 16
  /-- MODEL'S OWN: the random byte the current or last step was given (R32); every step overwrites it. -/
  rand8 : Byte
  /-- MODEL'S OWN: what the last step returned (R107); absent before the first. During execute it holds the
  `dirty <- 0` of R100 or the `dirty <- 1` of R190 and R191. -/
  result : Option StepResult
  /-- MODEL'S OWN: the driver's turns known in advance; when none is left the environment's free values drive. -/
  schedule : List Turn
  /-- MODEL'S OWN: how many turns were freely driven so far, the argument of the next free value. -/
  draws : Nat
  deriving DecidableEq, Repr

/-- What the outside may look at between events (R30): the framebuffer, the two timers, and what the last step
returned to the driver. -/
structure Observation where
  fb : Framebuffer
  dt : Byte
  st : Byte
  result : Option StepResult
  deriving DecidableEq, Repr

/-- Where the model stops without a next state. Every fault of the hardware is a next state with the record written
(R226); these are states that are no state of the hardware, which no event reaches from one that is (safe). -/
inductive Fault where
  /-- Raised by 2NNN and 00EE where `SP` names a stack entry that `stack` does not hold: outside R27's invariant
  "pointer is always in [0, capacity]". Safe: the machine stops where the spec gives no effect. -/
  | stackSlotAbsent
  /-- Raised by a step of a state that is halted and holds no fault record: outside R33. Safe. -/
  | haltedWithoutRecord
  deriving DecidableEq, Repr

/-- What has no meaning in the model. -/
inductive Refusal where
  /-- An instruction whose arm in `exec` has no meaning yet; no arm answers it now. Safe. -/
  | notModelled (mnemonic : String)
  /-- `Reset` with an image of more than 3584 bytes: outside its domain (R55, R251, D26 "treatment `refuse`"). Safe. -/
  | imageTooLong
  deriving DecidableEq, Repr

/-- Every pixel off (R29, R190). -/
def Framebuffer.blank : Framebuffer := Vector.replicate 32 (Vector.replicate 64 false)

/-- The machine right after `Reset` with an empty image under parameters `p` (R35, R250). The entries of `stack` have
no reset value in the spec; 0 is a DESIGN CHOICE no instruction can observe (log entry 3; unsafe). -/
def State.resetWith (p : Config.Params) : State where
  params := p
  v := Vector.replicate 16 0
  i := 0
  pc := 0x0200
  stack := List.replicate p.stackCapacity 0
  sp := 0
  dt := 0
  st := 0
  fb := Framebuffer.blank
  mem := []
  halted := false
  fault := none
  keys := 0
  rand8 := 0
  result := none
  schedule := []
  draws := 0

/-- The machine right after reset with the default parameters (R35, R5). -/
def State.reset : State := State.resetWith Config.Params.default

end Sys2Proof.Machine
end

