-- ==== Sys2Proof/Machine/Ops.lean ====
section
/-! DEFINITION. The named operations over memory, registers, stack, timers and framebuffer; fetch and advance; the
one operation that takes a fault; the events of the environment. -/

namespace Sys2Proof.Machine

/-! ### Memory (20_memory.md R50 to R61) -/

/-- The byte a cell lists for address `a`, if one does. -/
def Memory.find : Memory → Nat → Option Byte
  | [], _ => none
  | (k, b) :: m, a => if k = a then some b else Memory.find m a

/-- The byte at address `a` (`MemRead(a, 1)`, R9). -/
def Memory.read (font : Config.FontTable) (m : Memory) (a : Nat) : Byte :=
  (m.find a).getD (Memory.unlisted font a)

/-- The cells with `(a, b)` in its place and any older cell of `a` gone. -/
def Memory.put : Memory → Nat → Byte → Memory
  | [], a, b => [(a, b)]
  | (k, c) :: m, a, b =>
    if a < k then (a, b) :: (k, c) :: m
    else if a = k then (a, b) :: m
    else (k, c) :: Memory.put m a b

/-- The cells without one for address `a`. -/
def Memory.drop : Memory → Nat → Memory
  | [], _ => []
  | (k, c) :: m, a => if k = a then Memory.drop m a else (k, c) :: Memory.drop m a

/-- Store byte `b` at address `a` (`MemWrite(a, 1, b)`, R9), keeping the canonical form. -/
def Memory.write (font : Config.FontTable) (m : Memory) (a : Nat) (b : Byte) : Memory :=
  if b = Memory.unlisted font a then m.drop a else m.put a b

/-- Store bytes at ascending addresses from `a` on (R57, R173). -/
def Memory.writeList (font : Config.FontTable) : Memory → Nat → List Byte → Memory
  | m, _, [] => m
  | m, a, b :: bs => Memory.writeList font (m.write font a b) (a + 1) bs

/-- `MemRead(a, 1)` (R9). -/
def State.readByte (s : State) (a : Nat) : Byte := s.mem.read s.params.fontTable a

/-- The `n` bytes at `a` upward. -/
def State.readBytes (s : State) (a n : Nat) : List Byte := (List.range n).map fun k => s.readByte (a + k)

/-- Store bytes at ascending addresses from `a` on. -/
def State.writeBytes (s : State) (a : Nat) (bs : List Byte) : State :=
  { s with mem := s.mem.writeList s.params.fontTable a bs }

/-! ### Registers (10_state.md R8, R20 to R24) -/

/-- `V[x]` (R8). -/
def State.reg (s : State) (x : RegIdx) : Byte := s.v[x.val]

/-- `V[x] <- b` (R8). -/
def State.setReg (s : State) (x : RegIdx) (b : Byte) : State := { s with v := s.v.set x.val b }

/-- VF is "another spelling of `V[15]`" (R8, R21). -/
def vF : RegIdx := 15

/-- The flag to VF first, the result to `V[x]` second (R22, R140): with `x` = 15 the result remains. -/
def State.setFlagThenReg (s : State) (flag : Byte) (x : RegIdx) (b : Byte) : State := (s.setReg vF flag).setReg x b

/-- `I <- w` (R8). -/
def State.setIndex (s : State) (w : Word) : State := { s with i := w }

/-- `pc <- w` (R8). -/
def State.setPc (s : State) (w : Word) : State := { s with pc := w }

/-- A skip: `pc <- (pc + 2) mod 65536` on the advanced `pc` (R128). -/
def State.skip (s : State) : State := s.setPc (s.pc + 2)

/-- Skip when the condition holds (R123 to R126, R201, R202). -/
def State.skipIf (s : State) (c : Bool) : State := if c then s.skip else s

/-- The rewind of FX0A: `pc <- (pc - 2) mod 65536` (R24 (f), R204). -/
def State.rewind (s : State) : State := s.setPc (s.pc - 2)

/-- `DT <- b` (R205). -/
def State.setDelay (s : State) (b : Byte) : State := { s with dt := b }

/-- `ST <- b` (R206). -/
def State.setSound (s : State) (b : Byte) : State := { s with st := b }

/-- `dirty <- d`, the value the step is going to return (R34, R100). -/
def State.setDirty (s : State) (d : Bool) : State := { s with result := some (.ok d) }

/-! ### The call stack (10_state.md R26, R27) -/

/-- Push a return address: `stack[SP] <- w; SP <- SP + 1` (R27). The caller has tested for a full stack. -/
def State.push (s : State) (w : Word) : State := { s with stack := s.stack.set s.sp w, sp := s.sp + 1 }

/-- Pop into `pc`: `SP <- SP - 1; pc <- stack[SP]` with the entry `w` read (R27); the popped entry keeps its value. -/
def State.popTo (s : State) (w : Word) : State := { s with sp := s.sp - 1, pc := w }

/-! ### Taking a fault (60_exceptions.md R220, R226) -/

/-- R226: "`halted <- 1`; `fault <- {cause, iw, fault_pc, addr}` with the fields of rule R220; the step returns
`Fault(fault)`. Nothing else is saved anywhere". `pc` stays where the step order put it. -/
def State.raise (s : State) (cause : FaultCause) (iw : Option Word) (faultPc : Word) (addr : Option Nat) : State :=
  { s with
    halted := true
    fault := some ⟨cause, iw, faultPc, addr⟩
    result := some (.fault ⟨cause, iw, faultPc, addr⟩) }

/-- `addr_of_insn`, from R12: during execute `pc == (addr_of_insn + 2) mod 65536`. -/
def State.addrOfInsn (s : State) : Word := s.pc - 2

/-- A fault raised in execute by instruction `i`: the record holds its word and the address it was fetched from (R220,
R10). -/
def State.raiseFrom (s : State) (i : Instr) (cause : FaultCause) (addr : Option Nat) : State :=
  s.raise cause (some (encode i)) s.addrOfInsn addr

/-- Leaving the halted state: there is no return from a fault, only `Reset`, "and it discards everything" (R227). A
step while halted "changes nothing and returns the recorded fault again" (R108). -/
def State.haltedStep (s : State) : Host.Outcome State Fault Refusal :=
  match s.fault with
  | some r => .next { s with result := some (.fault r) }
  | none => .fault .haltedWithoutRecord

/-! ### Bounds of data accesses (20_memory.md R61) -/

/-- R61: the first out-of-range address of an access to `n` bytes at `I`, or `none` if the access stays within memory:
"If `n >= 1` and `I + n - 1 >= 4096` ... `addr = max(I, 4096)`", the sum an integer. -/
def State.dataFault (s : State) (n : Nat) : Option Nat :=
  if 1 ≤ n ∧ 4096 ≤ s.i.toNat + n - 1 then some (max s.i.toNat 4096) else none

/-! ### The framebuffer (10_state.md R29) -/

/-- `FB[y][x]`; off outside the 64 by 32 grid. -/
def Framebuffer.get (fb : Framebuffer) (y x : Nat) : Bool :=
  if h : y < 32 ∧ x < 64 then (fb[y]'h.1)[x]'h.2 else false

/-- `FB[y][x] <- b`; nothing outside the grid. -/
def Framebuffer.set (fb : Framebuffer) (y x : Nat) (b : Bool) : Framebuffer :=
  if h : y < 32 ∧ x < 64 then Vector.set fb y ((fb[y]'h.1).set x b h.2) h.1 else fb

/-- `FB[y][x]` of a state. -/
def State.pixel (s : State) (y x : Nat) : Bool := s.fb.get y x

/-- R30: what an observation between events sees; it changes nothing. -/
def State.observe (s : State) : Observation := { fb := s.fb, dt := s.dt, st := s.st, result := s.result }

/-! ### Fetch and advance (40_fetch_decode.md R101, R102) -/

/-- The word at `pc` and `pc+1`, big-endian; an odd `pc` is like an even one (R57, R58). -/
def State.wordAtPc (s : State) : Word := joinBytes (s.readByte s.pc.toNat) (s.readByte (s.pc.toNat + 1))

/-- R101: the fetched word, or `none` exactly when `pc + 1 >= 4096`, the test made on integers. -/
def State.fetch (s : State) : Option Word :=
  if 4096 ≤ s.pc.toNat + 1 then none else some s.wordAtPc

/-- R102 and the `dirty <- 0` of R100: the state an instruction's pseudocode starts from. -/
def State.advance (s : State) : State := (s.setPc (s.pc + 2)).setDirty false

/-! ### The environment (00_scope.md R11, 60_exceptions.md R236, 70_reset_and_hazards.md R250) -/

/-- `if T > 0: T <- T - 1` (R236). -/
def tickTimer (t : Byte) : Byte := if t.toNat > 0 then t - 1 else t

/-- R236: both timers by the same event; nothing when halted. -/
def State.timerTick (s : State) : State :=
  if s.halted then s else { s with dt := tickTimer s.dt, st := tickTimer s.st }

/-- A timer after `n` ticks. -/
def tickTimerTimes : Nat → Byte → Byte
  | 0, t => t
  | n + 1, t => tickTimerTimes n (tickTimer t)

/-- `n` `TimerTick` events in a row, of a machine that is running. -/
def State.runTicks (s : State) (n : Nat) : State :=
  { s with dt := tickTimerTimes n s.dt, st := tickTimerTimes n s.st }

/-- `K <- keys` and the `rand8` of this step (R100, R31, R32). -/
def State.sample (s : State) (keys : BitVec 16) (rand8 : Byte) : State := { s with keys := keys, rand8 := rand8 }

/-- The driver's next turn: the next known one, else one of free values (R31, R32, R236: any keys, any byte, any
number of ticks). -/
def State.nextTurn (s : State) : Turn :=
  match s.schedule with
  | t :: _ => t
  | [] => { ticks := Config.freeTicks s.draws, keys := Config.freeKeys s.draws, rand8 := Config.freeRand8 s.draws }

/-- The state with the next turn used up. -/
def State.dropTurn (s : State) : State :=
  match s.schedule with
  | _ :: ts => { s with schedule := ts }
  | [] => { s with draws := s.draws + 1 }

/-- The part of a turn that stands before the fetch: the ticks, then the sampling of the step's arguments. -/
def State.beginTurn (s : State) : State :=
  (s.dropTurn.runTicks s.nextTurn.ticks).sample s.nextTurn.keys s.nextTurn.rand8

/-- R250, R251: `Reset(image)` of a machine with parameters `p`; the image's byte `k` goes to `0x200 + k`. An image
that does not fit is outside `Reset`'s domain (D26). -/
def loadImage (p : Config.Params) (image : List Byte) : Host.Outcome State Fault Refusal :=
  if image.length ≤ 3584 then .next ((State.resetWith p).writeBytes 0x200 image)
  else .refused .imageTooLong

/-- `Reset(image)` in any state, halted or not: everything is written anew (R250, R227). The parameters are the
machine's; what the driver is going to do next is not the machine's to reset. -/
def State.resetEvent (s : State) (image : List Byte) : Host.Outcome State Fault Refusal :=
  match loadImage s.params image with
  | .next t => .next { t with schedule := s.schedule, draws := s.draws }
  | .fault r => .fault r
  | .refused r => .refused r

/-- The word placed where the next step fetches, if that lies in memory. -/
def State.placeWord (s : State) (iw : Word) : State :=
  if 4096 ≤ s.pc.toNat + 1 then s else s.writeBytes s.pc.toNat (wordBytes iw)

end Sys2Proof.Machine
end

