-- ==== Sys2Proof/Machine/Operands.lean ====
section
/-! DEFINITION. The operand forms (30_encoding.md R82, R83; 44_index_memory.md R173): register fields, zero-extended
immediates, runs of registers, the decimal digits, the key number and the draw origin. -/

namespace Sys2Proof.Machine

/-- R82: "`NNN` is written to the 16-bit `pc` or `I` (upper four bits become 0)". -/
def zextNnn (nnn : BitVec 12) : Word := nnn.setWidth 16

/-- BNNN's target: `(V[X] + NNN) mod 65536`, the sum an integer (R127, R7). -/
def jumpOffset (a : Byte) (nnn : BitVec 12) : Word := BitVec.ofNat 16 (a.toNat + nnn.toNat)

/-- FX1E's sum, an integer (R171). -/
def indexSum (s : State) (x : RegIdx) : Nat := s.i.toNat + (s.reg x).toNat

/-- FX29's address: `FONT_BASE + 5 * V[X]`, the whole 8-bit `V[X]` (R172). -/
def glyphAddress (a : Byte) : Word := BitVec.ofNat 16 (0x050 + 5 * a.toNat)

/-- FX33's digits, hundreds first (R174). -/
def decimalDigits (a : Byte) : List Byte :=
  [BitVec.ofNat 8 (a.toNat / 100), BitVec.ofNat 8 (a.toNat / 10 % 10), BitVec.ofNat 8 (a.toNat % 10)]

/-- The bytes of a run of `x + 1`, `V[0]` to `V[x]` (R175). -/
def State.regRun (s : State) (x : RegIdx) : List Byte := s.v.toList.take (x.val + 1)

/-- FX65's write: `V[k] <- Mem[I + k]` for `k` in `0 .. x`, registers above `x` unchanged (R176). -/
def State.loadRun (s : State) (x : RegIdx) : State :=
  { s with v := Vector.ofFn fun k => if k.val ≤ x.val then s.readByte (s.i.toNat + k.val) else s.reg k }

/-- `K[k]` (R8, R31). -/
def State.keyHeld (s : State) (k : Nat) : Bool := s.keys.getLsbD k

/-- "the least k in 0 .. 15 with K[k] == 1" (R204), `none` when `K == 0x0000`. -/
def State.lowestKey (s : State) : Option Nat := (List.range 16).find? s.keyHeld

/-- The origin column `V[X] mod 64` (R191, R193). -/
def originX (a : Byte) : Nat := a.toNat % 64

/-- The origin row `V[Y] mod 32` (R191, R193). -/
def originY (a : Byte) : Nat := a.toNat % 32

end Sys2Proof.Machine
end

