-- ==== Sys2Proof/Machine/Alu.lean ====
section
/-! DEFINITION. Register moves and 8-bit arithmetic (42_alu.md): 6XNN, 7XNN, 8XY0 to 8XY5, 8XY7. Arithmetic on `Byte`
wraps modulo 256 (R150); both operands are read before anything is written (R140). -/

namespace Sys2Proof.Machine

/-- 6XNN (R141). -/
def execLdImm (x : RegIdx) (nn : BitVec 8) (s : State) : Host.Outcome State Fault Refusal := .next (s.setReg x nn)

/-- 7XNN (R142): no flag effect. -/
def execAddImm (x : RegIdx) (nn : BitVec 8) (s : State) : Host.Outcome State Fault Refusal :=
  .next (s.setReg x (s.reg x + nn))

/-- 8XY0 (R143). -/
def execLdReg (x y : RegIdx) (s : State) : Host.Outcome State Fault Refusal := .next (s.setReg x (s.reg y))

/-- 8XY1 (R144): VF is not written. -/
def execOrReg (x y : RegIdx) (s : State) : Host.Outcome State Fault Refusal :=
  .next (s.setReg x (s.reg x ||| s.reg y))

/-- 8XY2 (R145): VF is not written. -/
def execAndReg (x y : RegIdx) (s : State) : Host.Outcome State Fault Refusal :=
  .next (s.setReg x (s.reg x &&& s.reg y))

/-- 8XY3 (R146): VF is not written. -/
def execXorReg (x y : RegIdx) (s : State) : Host.Outcome State Fault Refusal :=
  .next (s.setReg x (s.reg x ^^^ s.reg y))

/-- 8XY4 (R147). -/
def execAddReg (x y : RegIdx) (s : State) : Host.Outcome State Fault Refusal :=
  .next (s.setFlagThenReg (carryFlag (s.reg x) (s.reg y)) x (s.reg x + s.reg y))

/-- 8XY5 (R148): the flag is strict, equal operands give 0. -/
def execSub (x y : RegIdx) (s : State) : Host.Outcome State Fault Refusal :=
  .next (s.setFlagThenReg (greaterFlag (s.reg x) (s.reg y)) x (s.reg x - s.reg y))

/-- 8XY7 (R149): the flag is strict, equal operands give 0. -/
def execSubn (x y : RegIdx) (s : State) : Host.Outcome State Fault Refusal :=
  .next (s.setFlagThenReg (greaterFlag (s.reg y) (s.reg x)) x (s.reg y - s.reg x))

end Sys2Proof.Machine
end

