-- ==== Sys2Proof/Machine/ControlTransfer.lean ====
section
/-! DEFINITION. Control transfer (41_control_transfer.md): 00EE, 1NNN, 2NNN, 3XNN, 4XNN, 5XY0, 9XY0, BNNN.
Throughout, `pc` is already `addr_of_insn + 2` (R102). -/

namespace Sys2Proof.Machine

/-- 00EE (R120). -/
def execRet (s : State) : Host.Outcome State Fault Refusal :=
  if s.sp = 0 then .next (s.raiseFrom .ret .stackUnderflow none)
  else match s.stack[s.sp - 1]? with
    | some w => .next (s.popTo w)
    | none => .fault .stackSlotAbsent

/-- 1NNN (R121). -/
def execJp (nnn : BitVec 12) (s : State) : Host.Outcome State Fault Refusal := .next (s.setPc (zextNnn nnn))

/-- 2NNN (R122): the overflow test comes before any write; the saved value is the advanced `pc`. -/
def execCall (nnn : BitVec 12) (s : State) : Host.Outcome State Fault Refusal :=
  if s.sp = s.params.stackCapacity then .next (s.raiseFrom (.call nnn) .stackOverflow none)
  else if s.sp < s.stack.length then .next ((s.push s.pc).setPc (zextNnn nnn))
  else .fault .stackSlotAbsent

/-- 3XNN (R123). -/
def execSeImm (x : RegIdx) (nn : BitVec 8) (s : State) : Host.Outcome State Fault Refusal :=
  .next (s.skipIf (s.reg x == nn))

/-- 4XNN (R124). -/
def execSneImm (x : RegIdx) (nn : BitVec 8) (s : State) : Host.Outcome State Fault Refusal :=
  .next (s.skipIf (s.reg x != nn))

/-- 5XY0 (R125). -/
def execSeReg (x y : RegIdx) (s : State) : Host.Outcome State Fault Refusal :=
  .next (s.skipIf (s.reg x == s.reg y))

/-- 9XY0 (R126). -/
def execSneReg (x y : RegIdx) (s : State) : Host.Outcome State Fault Refusal :=
  .next (s.skipIf (s.reg x != s.reg y))

/-- BNNN (R127): the register added is `V[X]`, not always `V[0]`; the sum is not reduced to 12 bits. -/
def execJpV (x : RegIdx) (nnn : BitVec 12) (s : State) : Host.Outcome State Fault Refusal :=
  .next (s.setPc (jumpOffset (s.reg x) nnn))

end Sys2Proof.Machine
end

