-- ==== Sys2Proof/Machine/Display.lean ====
section
/-! DEFINITION. The framebuffer instructions (45_display.md): 00E0 and DXYN, the only two that mark dirty. The draw is
the loop of R191, row by row and bit by bit, over the framebuffer and the collision seen so far. -/

namespace Sys2Proof.Machine

/-- The framebuffer being drawn on and whether a collision was found. -/
abbrev Canvas := Framebuffer × Bool

/-- One sprite bit at row `y`, column `x`: clipped outside the grid; else VF is set when the bit and the pixel are both
1, and the pixel is updated by XOR (R191). -/
def drawBit (y x : Nat) (bit : Bool) (c : Canvas) : Canvas :=
  if y < 32 ∧ x < 64 then (Framebuffer.set c.1 y x (Framebuffer.get c.1 y x ^^ bit), c.2 || (bit && Framebuffer.get c.1 y x)) else c

/-- The bits of sprite byte `b` from column index `k` on: bit `7 - k` is drawn at column `x0 + k` (R191). -/
def drawBits (y x0 : Nat) (b : Byte) : List Nat → Canvas → Canvas
  | [], c => c
  | k :: ks, c => drawBits y x0 b ks (drawBit y (x0 + k) (b.getLsbD (7 - k)) c)

/-- One sprite byte, "most-significant bit drawn leftmost" (R191). -/
def drawRow (y x0 : Nat) (b : Byte) (c : Canvas) : Canvas := drawBits y x0 b [0, 1, 2, 3, 4, 5, 6, 7] c

/-- The sprite's bytes, one a row, downward from `y` (R191). -/
def drawRows : Nat → Nat → List Byte → Canvas → Canvas
  | _, _, [], c => c
  | y, x0, b :: bs, c => drawRows (y + 1) x0 bs (drawRow y x0 b c)

/-- 00E0 (R190). -/
def execCls (s : State) : Host.Outcome State Fault Refusal :=
  .next ({ s with fb := Framebuffer.blank }.setDirty true)

/-- The draw of DXYN once its bytes are known to lie in memory (R191): origin wrapped, body clipped (R193), VF the
collision flag. -/
def State.drawSprite (s : State) (x y : RegIdx) (n : Nat) : State :=
  let c := drawRows (originY (s.reg y)) (originX (s.reg x)) (s.readBytes s.i.toNat n) (s.fb, false)
  ({ s with fb := c.1 }.setReg vF (flagByte c.2)).setDirty true

/-- DXYN (R191): all `N` bytes are checked, none when `N` = 0 (D19). -/
def execDrw (x y : RegIdx) (n : BitVec 4) (s : State) : Host.Outcome State Fault Refusal :=
  match s.dataFault n.toNat with
  | some a => .next (s.raiseFrom (.drw x y n) .dataAccessOutOfBounds (some a))
  | none => .next (s.drawSprite x y n.toNat)

end Sys2Proof.Machine
end

