-- ==== Sys2Proof/Machine/IndexMemory.lean ====
section
/-! DEFINITION. The index register and data memory (44_index_memory.md): ANNN, FX1E, FX29, FX33, FX55, FX65. The whole
range of an access is checked before any byte moves (R61), and `I` is never changed by a memory instruction (R173). -/

namespace Sys2Proof.Machine

/-- ANNN (R170). -/
def execLdI (nnn : BitVec 12) (s : State) : Host.Outcome State Fault Refusal := .next (s.setIndex (zextNnn nnn))

/-- FX1E (R171): the flag first, then `I`; with `x` = 15 the old VF is the operand. -/
def execAddI (x : RegIdx) (s : State) : Host.Outcome State Fault Refusal :=
  .next ((s.setReg vF (indexFlag s.params.fx1eElseClearsVF (indexSum s x) (s.reg vF))).setIndex
    (BitVec.ofNat 16 (indexSum s x)))

/-- FX29 (R172). -/
def execLdF (x : RegIdx) (s : State) : Host.Outcome State Fault Refusal := .next (s.setIndex (glyphAddress (s.reg x)))

/-- FX33 (R174). -/
def execLdB (x : RegIdx) (s : State) : Host.Outcome State Fault Refusal :=
  match s.dataFault 3 with
  | some a => .next (s.raiseFrom (.ldB x) .dataAccessOutOfBounds (some a))
  | none => .next (s.writeBytes s.i.toNat (decimalDigits (s.reg x)))

/-- FX55 (R175). -/
def execLdMemV (x : RegIdx) (s : State) : Host.Outcome State Fault Refusal :=
  match s.dataFault (x.val + 1) with
  | some a => .next (s.raiseFrom (.ldMemV x) .dataAccessOutOfBounds (some a))
  | none => .next (s.writeBytes s.i.toNat (s.regRun x))

/-- FX65 (R176). -/
def execLdVMem (x : RegIdx) (s : State) : Host.Outcome State Fault Refusal :=
  match s.dataFault (x.val + 1) with
  | some a => .next (s.raiseFrom (.ldVMem x) .dataAccessOutOfBounds (some a))
  | none => .next (s.loadRun x)

end Sys2Proof.Machine
end

