-- ==== Sys2Proof/Machine/Shift.lean ====
section
/-! DEFINITION. The shift_unit (43_shift.md): 8XY6 and 8XYE shift `V[X]` in place by one; `V[Y]` is neither read nor
written. -/

namespace Sys2Proof.Machine

/-- 8XY6 (R160): logical shift right, bit 7 becomes 0. -/
def execShr (x _y : RegIdx) (s : State) : Host.Outcome State Fault Refusal :=
  .next (s.setFlagThenReg (shiftRightFlag (s.reg x)) x (s.reg x >>> 1))

/-- 8XYE (R161): shift left, bit 0 becomes 0. -/
def execShl (x _y : RegIdx) (s : State) : Host.Outcome State Fault Refusal :=
  .next (s.setFlagThenReg (shiftLeftFlag (s.reg x)) x (s.reg x <<< 1))

end Sys2Proof.Machine
end

