-- ==== Sys2Proof/Machine/TimersKeysRandom.lean ====
section
/-! DEFINITION. Random, key and timer instructions (46_timers_keys_random.md): CXNN, EX9E, EXA1, FX07, FX0A, FX15,
FX18. -/

namespace Sys2Proof.Machine

/-- CXNN (R200): `rand8` is the byte this step was given, any value (R32). -/
def execRnd (x : RegIdx) (nn : BitVec 8) (s : State) : Host.Outcome State Fault Refusal :=
  .next (s.setReg x (s.rand8 &&& nn))

/-- EX9E (R201): a key number above 15 faults (D6). -/
def execSkp (x : RegIdx) (s : State) : Host.Outcome State Fault Refusal :=
  if (s.reg x).toNat > 15 then .next (s.raiseFrom (.skp x) .keyIndexOutOfRange (some (s.reg x).toNat))
  else .next (s.skipIf (s.keyHeld (s.reg x).toNat))

/-- EXA1 (R202): a key number above 15 faults (D6). -/
def execSknp (x : RegIdx) (s : State) : Host.Outcome State Fault Refusal :=
  if (s.reg x).toNat > 15 then .next (s.raiseFrom (.sknp x) .keyIndexOutOfRange (some (s.reg x).toNat))
  else .next (s.skipIf (!s.keyHeld (s.reg x).toNat))

/-- FX07 (R203). -/
def execLdVDt (x : RegIdx) (s : State) : Host.Outcome State Fault Refusal := .next (s.setReg x s.dt)

/-- FX0A (R204): rewound when no key is held, else the lowest-numbered held key. -/
def execLdVK (x : RegIdx) (s : State) : Host.Outcome State Fault Refusal :=
  .next (match s.lowestKey with
    | none => s.rewind
    | some k => s.setReg x (BitVec.ofNat 8 k))

/-- FX15 (R205). -/
def execLdDtV (x : RegIdx) (s : State) : Host.Outcome State Fault Refusal := .next (s.setDelay (s.reg x))

/-- FX18 (R206). -/
def execLdStV (x : RegIdx) (s : State) : Host.Outcome State Fault Refusal := .next (s.setSound (s.reg x))

end Sys2Proof.Machine
end

