-- ==== Sys2Proof/Machine/Step.lean ====
section
/-! DEFINITION. The step: one turn of the driver, its `TimerTick` events and then one `Step` event
(40_fetch_decode.md R100), and the atomic events the hardware changes state in (00_scope.md R11). -/

namespace Sys2Proof.Machine

/-- R100, parts 1 to 4, of a machine that is not halted and has sampled its inputs. -/
def runStep (s : State) : Host.Outcome State Fault Refusal :=
  match s.fetch with
  | none => .next (s.raise .fetchOutOfBounds none s.pc none)
  | some iw =>
    match decodeWord iw with
    | none => .next (s.advance.raise .unknownInstruction (some iw) s.pc none)
    | some i => exec i s.advance

/-- `Step(keys, rand8)` (R100): a halted machine changes nothing and returns the recorded fault again (R108). -/
def stepEvent (keys : BitVec 16) (rand8 : Byte) (s : State) : Host.Outcome State Fault Refusal :=
  if s.halted then s.haltedStep else runStep (s.sample keys rand8)

/-- The atomic events that change state (R11). -/
inductive Event where
  | reset (image : List Byte)
  | step (keys : BitVec 16) (rand8 : Byte)
  | timerTick
  deriving DecidableEq, Repr

/-- What each event does (R11). -/
def event (e : Event) (s : State) : Host.Outcome State Fault Refusal :=
  match e with
  | .reset image => s.resetEvent image
  | .step keys rand8 => stepEvent keys rand8 s
  | .timerTick => .next s.timerTick

/-- One turn of the driver (R110): the ticks that fall before the step, then the step. A halted machine ignores both
(R227). -/
def step (s : State) : Host.Outcome State Fault Refusal :=
  if s.halted then s.haltedStep else runStep s.beginTurn

/-- The state with the table word `w` of `nbits` bits stored at `pc` and `pc+1`, where the next step fetches. Nothing
else changes; a `pc` of 4095 or more has no such place. -/
def State.withFetchWord (s : State) (nbits w : Nat) : State := s.placeWord (BitVec.ofNat 16 (w % 2 ^ nbits))

end Sys2Proof.Machine
end

