-- ==== Sys2Proof/Safety.lean ====
section
/-! DEFINITION. What every state of the hardware satisfies, and what counts as a safe run (60_exceptions.md R227, R231:
"a claim about a program that \"runs to completion\" must exclude" the faulted state). -/

namespace Sys2Proof.Safety

open Sys2Proof.Machine

/-- The fields a fault record has (R33, R220): no `iw` exactly for `FetchOutOfBounds`; an `addr` exactly for
`DataAccessOutOfBounds` and `KeyIndexOutOfRange`. -/
def RecordShape (r : FaultRecord) : Prop :=
  (r.iw = none ↔ r.cause = .fetchOutOfBounds) ∧
  (r.addr.isSome = true ↔ r.cause = .dataAccessOutOfBounds ∨ r.cause = .keyIndexOutOfRange)

/-- The invariant of the machine: every event keeps it and every reset state has it. -/
structure Inv (s : State) : Prop where
  /-- "capacity ≥ 16" (R26). -/
  params_valid : s.params.Valid
  /-- Memory is in canonical form, so every listed address is below 4096 (R50). -/
  mem_wf : Memory.wf s.params.fontTable s.mem = true
  /-- The stack has `STACK_CAPACITY` entries (R26). -/
  stack_length : s.stack.length = s.params.stackCapacity
  /-- "pointer is always in [0, capacity]" (R27). -/
  sp_le : s.sp ≤ s.params.stackCapacity
  /-- An entry in use is "always a value `pc` once held, so at most 4096" (R120). -/
  stack_bound : ∀ (k : Nat) (w : Word), k < s.sp → s.stack[k]? = some w → w.toNat ≤ 4096
  /-- "In every reachable state `pc <= 0x10FE`" (R25). -/
  pc_bound : s.pc.toNat ≤ 0x10FE
  /-- `fault` is present exactly while `halted == 1` (R33). -/
  halted_iff : s.halted = true ↔ s.fault.isSome = true
  /-- A fault is what the last step returned, and its record has the fields of its cause (R226, R220). -/
  fault_result : ∀ r, s.fault = some r → s.result = some (.fault r) ∧ RecordShape r
  /-- A running machine's last step returned no fault (R107, R226). -/
  running_result : s.fault = none → ∀ r, s.result ≠ some (.fault r)

/-- A run of `k` steps from `s` that reaches `t` and met no fault on the way: a halted machine never runs again (R227),
so it is enough that `t` is not halted. -/
def SafeRun (k : Nat) (s t : State) : Prop := Sys2Proof.core.run k s = .next t ∧ t.halted = false

end Sys2Proof.Safety
end

