-- ==== Sys2Proof/Certificates/Slice0/Obligations.lean ====
section
/-! DEFINITION. The statements about the model, each from the spec's numbered rules. `s` is the state before, `t` the
state after. At the level of `exec` the program counter is already `addr_of_insn + 2` (40_fetch_decode.md R102). -/

open Sys2Proof Sys2Proof.Machine Sys2Proof.Safety

namespace Sys2Proof.Statements

/-- `s` with a fault taken and nothing else changed: halted, the record written and returned (R226). -/
def haltedWith (s : State) (cause : FaultCause) (iw : Option Word) (faultPc : Word) (addr : Option Nat) : State :=
  { s with
    halted := true
    fault := some { cause := cause, iw := iw, faultPc := faultPc, addr := addr }
    result := some (.fault { cause := cause, iw := iw, faultPc := faultPc, addr := addr }) }

/-- `t` is `s` but for `V[x]`, which holds `b`: every other register and every other part of the state is unchanged. -/
def OnlyReg (s t : State) (x : RegIdx) (b : Byte) : Prop :=
  t = { s with v := t.v } ∧ t.reg x = b ∧ ∀ k, k ≠ x → t.reg k = s.reg k

/-- `t` is `s` but for `V[x]`, which holds the result, and VF, which holds the flag unless `x` = 15, when the result
remains (R22, R140). -/
def FlagThenReg (s t : State) (x : RegIdx) (flag result : Byte) : Prop :=
  t = { s with v := t.v } ∧ t.reg x = result ∧ (x ≠ 15 → t.reg 15 = flag) ∧
    ∀ k, k ≠ x → k ≠ 15 → t.reg k = s.reg k

/-- The bit that DXYN with operands `x`, `y` and `n` rows, executed in `s`, puts on row `py`, column `px`: row `r` of the
sprite is the byte at `I + r`, its bit `7 - c` at column `V[X] mod 64 + c`, and there is none elsewhere (R191, R193). -/
def spriteCovers (s : State) (x y : RegIdx) (n : Nat) (py px : Nat) : Bool :=
  let x0 := (s.reg x).toNat % 64
  let y0 := (s.reg y).toNat % 32
  decide (y0 ≤ py ∧ py < y0 + n ∧ x0 ≤ px ∧ px < x0 + 8) &&
    (s.readByte (s.i.toNat + (py - y0))).getLsbD (7 - (px - x0))

/-- R103's table: the `pc` after a step that fetched instruction `i` in state `s` and raised no fault. -/
def NextPc (i : Instr) (s : State) (w : Word) : Prop :=
  match i with
  | .jp nnn | .call nnn => w.toNat = nnn.toNat
  | .jpV x nnn => w.toNat = (s.reg x).toNat + nnn.toNat
  | .ret => s.stack[s.sp - 1]? = some w
  | .seImm x nn => w = if s.reg x = nn then s.pc + 4 else s.pc + 2
  | .sneImm x nn => w = if s.reg x ≠ nn then s.pc + 4 else s.pc + 2
  | .seReg x y => w = if s.reg x = s.reg y then s.pc + 4 else s.pc + 2
  | .sneReg x y => w = if s.reg x ≠ s.reg y then s.pc + 4 else s.pc + 2
  | .skp x => w = if s.keys.getLsbD (s.reg x).toNat = true then s.pc + 4 else s.pc + 2
  | .sknp x => w = if s.keys.getLsbD (s.reg x).toNat = false then s.pc + 4 else s.pc + 2
  | .ldVK _ => w = if s.keys = 0 then s.pc else s.pc + 2
  | .cls | .ldImm _ _ | .addImm _ _ | .ldReg _ _ | .orReg _ _ | .andReg _ _ | .xorReg _ _ | .addReg _ _ | .sub _ _
  | .shr _ _ | .subn _ _ | .shl _ _ | .ldI _ | .rnd _ _ | .drw _ _ _ | .ldVDt _ | .ldDtV _ | .ldStV _ | .addI _
  | .ldF _ | .ldB _ | .ldMemV _ | .ldVMem _ => w = s.pc + 2

/-- R21: "The instructions that write VF as a flag are exactly: 8XY4 ..., 8XY5 and 8XY7 ..., 8XY6 ..., 8XYE ...,
FX1E ..., DXYN". -/
def WritesFlag : Instr → Prop
  | .addReg _ _ | .sub _ _ | .subn _ _ | .shr _ _ | .shl _ _ | .addI _ | .drw _ _ _ => True
  | .cls | .ret | .jp _ | .call _ | .seImm _ _ | .sneImm _ _ | .seReg _ _ | .ldImm _ _ | .addImm _ _ | .ldReg _ _
  | .orReg _ _ | .andReg _ _ | .xorReg _ _ | .sneReg _ _ | .ldI _ | .jpV _ _ | .rnd _ _ | .skp _ | .sknp _ | .ldVDt _
  | .ldVK _ | .ldDtV _ | .ldStV _ | .ldF _ | .ldB _ | .ldMemV _ | .ldVMem _ => False

/-- R21: "VF is its named destination (X = 15, or the run of FX65 reaches 15)". -/
def NamesVF : Instr → Prop
  | .ldImm x _ | .addImm x _ | .rnd x _ | .ldReg x _ | .orReg x _ | .andReg x _ | .xorReg x _ | .addReg x _ | .sub x _
  | .shr x _ | .subn x _ | .shl x _ | .ldVDt x | .ldVK x | .ldVMem x => x = 15
  | .cls | .ret | .jp _ | .call _ | .seImm _ _ | .sneImm _ _ | .seReg _ _ | .sneReg _ _ | .ldI _ | .jpV _ _
  | .drw _ _ _ | .skp _ | .sknp _ | .ldDtV _ | .ldStV _ | .addI _ | .ldF _ | .ldB _ | .ldMemV _ => False

/-- R37's row for `V[X]`, `V[0..X]` and `V[15]` as flag: the instructions that write a general register. -/
def WritesReg : Instr → Prop
  | .ldImm _ _ | .addImm _ _ | .ldReg _ _ | .orReg _ _ | .andReg _ _ | .xorReg _ _ | .addReg _ _ | .sub _ _ | .shr _ _
  | .subn _ _ | .shl _ _ | .rnd _ _ | .drw _ _ _ | .ldVDt _ | .ldVK _ | .addI _ | .ldVMem _ => True
  | .cls | .ret | .jp _ | .call _ | .seImm _ _ | .sneImm _ _ | .seReg _ _ | .sneReg _ _ | .ldI _ | .jpV _ _ | .skp _
  | .sknp _ | .ldDtV _ | .ldStV _ | .ldF _ | .ldB _ | .ldMemV _ => False

/-- R37's row for `pc`, beside the advance of every step. -/
def WritesPc : Instr → Prop
  | .ret | .jp _ | .call _ | .seImm _ _ | .sneImm _ _ | .seReg _ _ | .sneReg _ _ | .jpV _ _ | .skp _ | .sknp _
  | .ldVK _ => True
  | .cls | .ldImm _ _ | .addImm _ _ | .ldReg _ _ | .orReg _ _ | .andReg _ _ | .xorReg _ _ | .addReg _ _ | .sub _ _
  | .shr _ _ | .subn _ _ | .shl _ _ | .ldI _ | .rnd _ _ | .drw _ _ _ | .ldVDt _ | .ldDtV _ | .ldStV _ | .addI _
  | .ldF _ | .ldB _ | .ldMemV _ | .ldVMem _ => False

/-- The instructions that read the key snapshot (R31: "It is read by EX9E, EXA1 and FX0A only"). -/
def ReadsKeys : Instr → Prop
  | .skp _ | .sknp _ | .ldVK _ => True
  | .cls | .ret | .jp _ | .call _ | .seImm _ _ | .sneImm _ _ | .seReg _ _ | .ldImm _ _ | .addImm _ _ | .ldReg _ _
  | .orReg _ _ | .andReg _ _ | .xorReg _ _ | .addReg _ _ | .sub _ _ | .shr _ _ | .subn _ _ | .shl _ _ | .sneReg _ _
  | .ldI _ | .jpV _ _ | .rnd _ _ | .drw _ _ _ | .ldVDt _ | .ldDtV _ | .ldStV _ | .addI _ | .ldF _ | .ldB _
  | .ldMemV _ | .ldVMem _ => False

end Sys2Proof.Statements

open Sys2Proof.Statements

/-! ### Encoding (30_encoding.md) -/

/-- Words written out from R85's rows decode to the instruction the row names, and words of no row to none. -/
def Obligations.WrittenWordsDecodeAsTheTableSays : Prop :=
  decodeWord 0x00E0 = some .cls ∧ decodeWord 0x00EE = some .ret ∧ decodeWord 0x1ABC = some (.jp 0xABC) ∧
  decodeWord 0x3110 = some (.seImm 1 0x10) ∧ decodeWord 0x5340 = some (.seReg 3 4) ∧
  decodeWord 0x8AB4 = some (.addReg 10 11) ∧ decodeWord 0x81A6 = some (.shr 1 10) ∧
  decodeWord 0xB210 = some (.jpV 2 0x210) ∧ decodeWord 0xD125 = some (.drw 1 2 5) ∧
  decodeWord 0xE29E = some (.skp 2) ∧ decodeWord 0xF01E = some (.addI 0) ∧ decodeWord 0xFF65 = some (.ldVMem 15) ∧
  decodeWord 0x5341 = none ∧ decodeWord 0x8AB8 = none ∧ decodeWord 0xE29F = none ∧ decodeWord 0x0000 = none ∧
  decodeWord 0x0ABC = none

/-- R81: the six fields are the word's digit slices, top digit first: OP, X, Y, N, the low byte NN, the low 12 bits NNN. -/
def Obligations.SixFieldsAreSlicesOfTheWord : Prop :=
  ∀ iw : Word,
    (fieldsOf iw).op.toNat = iw.toNat / 4096 ∧ (fieldsOf iw).x.val = iw.toNat / 256 % 16 ∧
    (fieldsOf iw).y.val = iw.toNat / 16 % 16 ∧ (fieldsOf iw).n.toNat = iw.toNat % 16 ∧
    (fieldsOf iw).nn.toNat = iw.toNat % 256 ∧ (fieldsOf iw).nnn.toNat = iw.toNat % 4096

/-- Decoding the two bytes of any well-formed instruction gives it back, with every operand, and leaves the bytes after
them. -/
def Obligations.DecodeOfEncodeIsTheInstruction : Prop :=
  ∀ (i : Instr) (rest : List Byte), i.wf = true → decode (wordBytes (encode i) ++ rest) = .ok (i, rest)

/-- Whatever decodes is well-formed and encodes to the same word: no bit of a word is dropped, the ignored `Y` of the
shifts included (R90). -/
def Obligations.EncodeOfDecodeIsTheWord : Prop :=
  ∀ (iw : Word) (i : Instr), decodeWord iw = some i → i.wf = true ∧ encode i = iw

/-- R85: a word is the instruction of a row exactly when `(iw & mask) == match`, and no word matches two rows. -/
def Obligations.WordIsOfARowExactlyWhenMaskMatches : Prop :=
  ∀ (iw : Word) (j : Instr), j.row.Matches iw ↔ ∃ i, decodeWord iw = some i ∧ i.row = j.row

/-- The unknown words, group by group (30_encoding.md R86; groups 5 and 9 by the spec's own decision D15, R88). -/
def Obligations.UnknownWordsAreExactlyTheListed : Prop :=
  ∀ iw : Word, decodeWord iw = none ↔
    (iw.toNat / 4096 = 0 ∧ iw.toNat ≠ 0x00E0 ∧ iw.toNat ≠ 0x00EE) ∨
    (iw.toNat / 4096 = 5 ∧ iw.toNat % 16 ≠ 0) ∨
    (iw.toNat / 4096 = 8 ∧ iw.toNat % 16 ∈ [0x8, 0x9, 0xA, 0xB, 0xC, 0xD, 0xF]) ∨
    (iw.toNat / 4096 = 9 ∧ iw.toNat % 16 ≠ 0) ∨
    (iw.toNat / 4096 = 0xE ∧ iw.toNat % 256 ∉ [0x9E, 0xA1]) ∨
    (iw.toNat / 4096 = 0xF ∧ iw.toNat % 256 ∉ [0x07, 0x0A, 0x15, 0x18, 0x1E, 0x29, 0x33, 0x55, 0x65])

/-! ### The step (40_fetch_decode.md, 60_exceptions.md) -/

/-- A running machine whose two bytes at `pc` decode to `i` runs `i` on the state in which the turn's inputs are
sampled and its ticks done (`beginTurn`), `pc` is advanced by 2 and `dirty` is 0; `beginTurn` moves neither `pc` nor
memory. That a step is a turn with its ticks first is the model's choice (log entry 7). -/
def Obligations.StepRunsTheDecodedInstruction : Prop :=
  ∀ (s : State) (i : Instr), s.halted = false → s.pc.toNat ≤ 4094 →
    decode [s.readByte s.pc.toNat, s.readByte (s.pc.toNat + 1)] = .ok (i, []) →
    step s = exec i { s.beginTurn with pc := s.pc + 2, result := some (.ok false) } ∧
    s.beginTurn.pc = s.pc ∧ s.beginTurn.mem = s.mem

/-- A turn of a running machine is the turn's `TimerTick` events one by one and then the `Step` event with the turn's
arguments. That the host's `step` is one such turn, and where its inputs come from, is the model's choice (log entries 7
and 5); the events and that any number of ticks may fall between two steps are the spec's (R11, R110, R236). -/
def Obligations.TurnIsItsTicksThenOneStepEvent : Prop :=
  ∀ s : State, s.halted = false →
    step s = stepEvent s.nextTurn.keys s.nextTurn.rand8 (State.timerTick^[s.nextTurn.ticks] s.dropTurn)

/-- R101: a fetch succeeds exactly when `pc ≤ 4094`, reading big-endian at odd and even `pc` alike; otherwise the step
takes `FetchOutOfBounds` with `pc` and everything else but `halted`, `fault` and the step's own inputs and result
unchanged (no alignment test and the record's layout: the spec's decisions D4, D11). -/
def Obligations.FetchSucceedsExactlyBelow4095 : Prop :=
  ∀ (s : State) (keys : BitVec 16) (rand8 : Byte),
    (s.pc.toNat ≤ 4094 → ∃ iw, s.fetch = some iw ∧
      iw.toNat = (s.readByte s.pc.toNat).toNat * 256 + (s.readByte (s.pc.toNat + 1)).toNat) ∧
    (4095 ≤ s.pc.toNat → s.fetch = none ∧ (s.halted = false →
      stepEvent keys rand8 s =
        .next (haltedWith { s with keys := keys, rand8 := rand8 } .fetchOutOfBounds none s.pc none)))

/-- R106, R222: a fetched word that matches no row is fatal; the record holds the word and the address it was fetched
from, `pc` is advanced by 2, no other state has changed (the spec's decision D11), and zeroed memory is such a word. -/
def Obligations.UnknownWordHaltsAfterTheAdvance : Prop :=
  decodeWord 0x0000 = none ∧
  ∀ (s : State) (keys : BitVec 16) (rand8 : Byte) (iw : Word),
    s.halted = false → s.fetch = some iw → decodeWord iw = none →
    stepEvent keys rand8 s = .next
      (haltedWith { s with keys := keys, rand8 := rand8, pc := s.pc + 2 } .unknownInstruction (some iw) s.pc none)

/-- A halted machine: `Step` and `TimerTick` change nothing, and the recorded fault is returned again (the spec's own
decision D12). -/
def Obligations.HaltedMachineChangesNothing : Prop :=
  ∀ (s : State) (keys : BitVec 16) (rand8 : Byte), Inv s → s.halted = true →
    step s = .next s ∧ stepEvent keys rand8 s = .next s ∧ s.timerTick = s ∧
    ∃ r, s.fault = some r ∧ s.result = some (.fault r)

/-- A step of a hardware state always returns, `Ok(dirty)` while running or `Fault(record)` once halted, never anything
else (R107; that a fault halts with a record is the spec's decision D11). -/
def Obligations.StepAlwaysReturnsOkOrFault : Prop :=
  ∀ s : State, Inv s → ∃ t, step s = .next t ∧
    ((t.halted = false ∧ ∃ d, t.result = some (.ok d)) ∨
     (t.halted = true ∧ ∃ r, t.fault = some r ∧ t.result = some (.fault r)))

/-- `dirty` is 1 exactly for 00E0 and DXYN (R34; the spec's decision D24). -/
def Obligations.DirtyExactlyForClearAndDraw : Prop :=
  ∀ (s t : State) (keys : BitVec 16) (rand8 : Byte) (i : Instr),
    s.halted = false → s.pc.toNat ≤ 4094 → decodeWord s.wordAtPc = some i → stepEvent keys rand8 s = .next t →
    t.halted = false →
    (t.result = some (.ok true) ↔ i = .cls ∨ ∃ x y n, i = .drw x y n) ∧
    (t.result = some (.ok false) ↔ ¬ (i = .cls ∨ ∃ x y n, i = .drw x y n))

/-- R103: the `pc` after every step that raised no fault. -/
def Obligations.NextPcIsAsTabulated : Prop :=
  ∀ (s t : State) (keys : BitVec 16) (rand8 : Byte) (i : Instr),
    s.halted = false → s.pc.toNat ≤ 4094 → decodeWord s.wordAtPc = some i → stepEvent keys rand8 s = .next t →
    t.halted = false → NextPc i { s with keys := keys } t.pc

/-- Faults are precise: a step that halts a running machine changes nothing but `pc` (not even that for
`FetchOutOfBounds`), and its record holds the address of the faulting instruction and the word fetched from it (R226,
R230; the spec's decision D11). -/
def Obligations.FaultsArePrecise : Prop :=
  ∀ (s t : State) (keys : BitVec 16) (rand8 : Byte),
    s.halted = false → stepEvent keys rand8 s = .next t → t.halted = true →
    ∃ r : FaultRecord, t = haltedWith { s with keys := keys, rand8 := rand8, pc := t.pc } r.cause r.iw r.faultPc r.addr ∧
      r.faultPc = s.pc ∧
      t.pc = (if r.cause = .fetchOutOfBounds then s.pc else s.pc + 2) ∧
      r.iw = (if r.cause = .fetchOutOfBounds then none else some s.wordAtPc)

/-! ### Control transfer (41_control_transfer.md) -/

/-- R120: 00EE pops the return address, or faults on an empty stack with `SP`, the stack and `pc` as they are (the slot
read and the record's layout: the spec's decisions D17, D11). -/
def Obligations.ReturnPopsOrUnderflows : Prop :=
  ∀ s : State,
    (∀ w, s.sp ≠ 0 → s.stack[s.sp - 1]? = some w → exec .ret s = .next { s with sp := s.sp - 1, pc := w }) ∧
    (s.sp = 0 → exec .ret s = .next (haltedWith s .stackUnderflow (some 0x00EE) (s.pc - 2) none))

/-- R121: 1NNN sets `pc` to NNN, the upper four bits 0, and changes nothing else. -/
def Obligations.JumpSetsPcToNNN : Prop :=
  ∀ (s : State) (nnn : BitVec 12),
    ∃ t, exec (.jp nnn) s = .next t ∧ t = { s with pc := t.pc } ∧ t.pc.toNat = nnn.toNat

/-- R122: 2NNN pushes the advanced `pc` and jumps, or faults on a full stack with nothing written (the capacity is OPEN, D2;
the slot written and the record's layout: the spec's decisions D17, D11). -/
def Obligations.CallPushesOrOverflows : Prop :=
  ∀ (s : State) (nnn : BitVec 12),
    (s.sp ≠ s.params.stackCapacity → s.sp < s.stack.length →
      exec (.call nnn) s =
        .next { s with stack := s.stack.set s.sp s.pc, sp := s.sp + 1, pc := BitVec.ofNat 16 nnn.toNat }) ∧
    (s.sp = s.params.stackCapacity →
      exec (.call nnn) s =
        .next (haltedWith s .stackOverflow (some (BitVec.ofNat 16 (0x2000 + nnn.toNat))) (s.pc - 2) none))

/-- R123 to R126: the four skips change `pc` by 2 when their condition holds, and nothing else ever. -/
def Obligations.SkipsAddTwoExactlyOnTheirCondition : Prop :=
  ∀ (s : State) (x y : RegIdx) (nn : BitVec 8),
    exec (.seImm x nn) s = .next { s with pc := if (s.reg x).toNat = nn.toNat then s.pc + 2 else s.pc } ∧
    exec (.sneImm x nn) s = .next { s with pc := if (s.reg x).toNat = nn.toNat then s.pc else s.pc + 2 } ∧
    exec (.seReg x y) s = .next { s with pc := if (s.reg x).toNat = (s.reg y).toNat then s.pc + 2 else s.pc } ∧
    exec (.sneReg x y) s = .next { s with pc := if (s.reg x).toNat = (s.reg y).toNat then s.pc else s.pc + 2 }

/-- R127: BNNN adds `V[X]` to NNN at 16 bits, the sum not reduced to 12 bits (`pc` is 16 bits wide by the spec's decision
D1, log entry 18); nothing but `pc` changes. -/
def Obligations.JumpWithOffsetAddsVX : Prop :=
  ∀ (s : State) (x : RegIdx) (nnn : BitVec 12),
    ∃ t, exec (.jpV x nnn) s = .next t ∧ t = { s with pc := t.pc } ∧ t.pc.toNat = (s.reg x).toNat + nnn.toNat

/-- Where `SP` names an entry that the stack does not hold, and where a halted machine holds no record, the model stops
by name: no state of the hardware is such (model's choice, log entry 8). -/
def Obligations.StatesOutsideTheHardwareStop : Prop :=
  ∀ (s : State) (nnn : BitVec 12),
    (s.sp ≠ 0 → s.stack[s.sp - 1]? = none → exec .ret s = .fault .stackSlotAbsent) ∧
    (s.sp ≠ s.params.stackCapacity → s.stack.length ≤ s.sp → exec (.call nnn) s = .fault .stackSlotAbsent) ∧
    (s.halted = true → s.fault = none → step s = .fault .haltedWithoutRecord)

/-- R130: a call at address `a`, then a return with `SP` one above the call's and the entry not overwritten since,
leaves `pc` at `a + 2` and `SP` as before the call. -/
def Obligations.CallThenReturnComesBack : Prop :=
  ∀ (s t u : State) (a : Word) (nnn : BitVec 12),
    s.pc = a + 2 → s.sp < s.params.stackCapacity → s.stack.length = s.params.stackCapacity →
    exec (.call nnn) s = .next t → u.sp = s.sp + 1 → u.stack[s.sp]? = t.stack[s.sp]? →
    exec .ret u = .next { u with pc := a + 2, sp := s.sp }

/-! ### Moves, arithmetic, logic, shifts (42_alu.md, 43_shift.md) -/

/-- R141 to R146: the moves, the flagless add and the logic write `V[X]` alone; VF changes only as a destination. -/
def Obligations.MovesAndLogicWriteOnlyVX : Prop :=
  ∀ (s : State) (x y : RegIdx) (nn : BitVec 8),
    (∃ t, exec (.ldImm x nn) s = .next t ∧ OnlyReg s t x nn) ∧
    (∃ t, exec (.addImm x nn) s = .next t ∧ OnlyReg s t x (BitVec.ofNat 8 (((s.reg x).toNat + nn.toNat) % 256))) ∧
    (∃ t, exec (.ldReg x y) s = .next t ∧ OnlyReg s t x (s.reg y)) ∧
    (∃ t, exec (.orReg x y) s = .next t ∧ OnlyReg s t x (s.reg x ||| s.reg y)) ∧
    (∃ t, exec (.andReg x y) s = .next t ∧ OnlyReg s t x (s.reg x &&& s.reg y)) ∧
    (∃ t, exec (.xorReg x y) s = .next t ∧ OnlyReg s t x (s.reg x ^^^ s.reg y))

/-- R147: 8XY4 writes the carry to VF first and the wrapped sum to `V[X]` second; the carry is also the test that the
wrapped sum is less than the old `V[X]`. With X = 15 the result remains: the spec's decision D8. -/
def Obligations.AddWritesCarryThenSum : Prop :=
  ∀ (s : State) (x y : RegIdx),
    ∃ t, exec (.addReg x y) s = .next t ∧
      FlagThenReg s t x (if (s.reg x).toNat + (s.reg y).toNat > 255 then 1 else 0)
        (BitVec.ofNat 8 (((s.reg x).toNat + (s.reg y).toNat) % 256)) ∧
      (x ≠ 15 → (t.reg 15 = 1 ↔ (t.reg x).toNat < (s.reg x).toNat))

/-- R148, R149: 8XY5 and 8XY7 write the strict comparison to VF first and the wrapped difference to `V[X]` second. With
X = 15 the result remains: the spec's decision D8. -/
def Obligations.SubtractWritesStrictFlagThenDifference : Prop :=
  ∀ (s : State) (x y : RegIdx),
    (∃ t, exec (.sub x y) s = .next t ∧
      FlagThenReg s t x (if (s.reg x).toNat > (s.reg y).toNat then 1 else 0)
        (BitVec.ofNat 8 (((s.reg x).toNat + 256 - (s.reg y).toNat) % 256))) ∧
    (∃ t, exec (.subn x y) s = .next t ∧
      FlagThenReg s t x (if (s.reg y).toNat > (s.reg x).toNat then 1 else 0)
        (BitVec.ofNat 8 (((s.reg y).toNat + 256 - (s.reg x).toNat) % 256)))

/-- R160, R161: the shifts write the bit shifted out to VF first and the shifted value to `V[X]` second, whatever Y.
With X = 15 the shifted value remains: the spec's decision D8. -/
def Obligations.ShiftsWriteTheBitShiftedOutThenTheValue : Prop :=
  ∀ (s : State) (x y : RegIdx),
    (∃ t, exec (.shr x y) s = .next t ∧
      FlagThenReg s t x (BitVec.ofNat 8 ((s.reg x).toNat % 2)) (BitVec.ofNat 8 ((s.reg x).toNat / 2))) ∧
    (∃ t, exec (.shl x y) s = .next t ∧
      FlagThenReg s t x (BitVec.ofNat 8 ((s.reg x).toNat / 128)) (BitVec.ofNat 8 ((s.reg x).toNat * 2 % 256)))

/-! ### The index register and memory (44_index_memory.md) -/

/-- R170, R172: ANNN loads NNN; FX29 the address of the glyph, from the whole `V[X]` and without a wrap (that
the font starts at 0x050 is the spec's decision D14). -/
def Obligations.IndexLoadsWriteOnlyI : Prop :=
  ∀ (s : State) (x : RegIdx) (nnn : BitVec 12),
    (∃ t, exec (.ldI nnn) s = .next t ∧ t = { s with i := t.i } ∧ t.i.toNat = nnn.toNat) ∧
    (∃ t, exec (.ldF x) s = .next t ∧ t = { s with i := t.i } ∧ t.i.toNat = 0x050 + 5 * (s.reg x).toNat)

/-- FX1E: the sum to `I` modulo 65536; VF 1 when the integer sum passes 0xFF, else cleared or kept by the OPEN
parameter (the spec's decision D9). The flag is computed from the old VF when X = 15. -/
def Obligations.AddToIndexWritesFlagAndI : Prop :=
  ∀ (s : State) (x : RegIdx),
    ∃ t, exec (.addI x) s = .next t ∧ t = { s with v := t.v, i := t.i } ∧
      t.i.toNat = (s.i.toNat + (s.reg x).toNat) % 65536 ∧
      t.reg 15 = (if s.i.toNat + (s.reg x).toNat > 255 then 1
        else if s.params.fx1eElseClearsVF = true then 0 else s.reg 15) ∧
      ∀ k, k ≠ 15 → t.reg k = s.reg k

/-- FX33: the three decimal digits at `I`, `I+1`, `I+2` and no other byte, or the fault with nothing written (the bounds
check is the spec's decision D5). -/
def Obligations.DecimalDigitsStoredOrFault : Prop :=
  ∀ (s : State) (x : RegIdx),
    (s.i.toNat + 2 < 4096 → ∃ t, exec (.ldB x) s = .next t ∧ t = { s with mem := t.mem } ∧
      (t.readByte s.i.toNat).toNat = (s.reg x).toNat / 100 ∧
      (t.readByte (s.i.toNat + 1)).toNat = (s.reg x).toNat / 10 % 10 ∧
      (t.readByte (s.i.toNat + 2)).toNat = (s.reg x).toNat % 10 ∧
      ∀ a, a < s.i.toNat ∨ s.i.toNat + 2 < a → t.readByte a = s.readByte a) ∧
    (4096 ≤ s.i.toNat + 2 →
      exec (.ldB x) s = .next (haltedWith s .dataAccessOutOfBounds (some (BitVec.ofNat 16 (0xF033 + 256 * x.val)))
        (s.pc - 2) (some (max s.i.toNat 4096))))

/-- FX55: `V[k]` at `I + k` for `k` in `0 .. X` and no other byte, or the fault with nothing written (D5). -/
def Obligations.RegisterRunStoredOrFault : Prop :=
  ∀ (s : State) (x : RegIdx),
    (s.i.toNat + x.val < 4096 → ∃ t, exec (.ldMemV x) s = .next t ∧ t = { s with mem := t.mem } ∧
      (∀ k : RegIdx, k ≤ x → t.readByte (s.i.toNat + k.val) = s.reg k) ∧
      ∀ a, a < s.i.toNat ∨ s.i.toNat + x.val < a → t.readByte a = s.readByte a) ∧
    (4096 ≤ s.i.toNat + x.val →
      exec (.ldMemV x) s = .next (haltedWith s .dataAccessOutOfBounds (some (BitVec.ofNat 16 (0xF055 + 256 * x.val)))
        (s.pc - 2) (some (max s.i.toNat 4096))))

/-- FX65: `V[k]` from `I + k` for `k` in `0 .. X`, the registers above and all of memory unchanged, or the fault with no
register written (D5). -/
def Obligations.RegisterRunLoadedOrFault : Prop :=
  ∀ (s : State) (x : RegIdx),
    (s.i.toNat + x.val < 4096 → ∃ t, exec (.ldVMem x) s = .next t ∧ t = { s with v := t.v } ∧
      (∀ k : RegIdx, k ≤ x → t.reg k = s.readByte (s.i.toNat + k.val)) ∧
      ∀ k : RegIdx, x < k → t.reg k = s.reg k) ∧
    (4096 ≤ s.i.toNat + x.val →
      exec (.ldVMem x) s = .next (haltedWith s .dataAccessOutOfBounds (some (BitVec.ofNat 16 (0xF065 + 256 * x.val)))
        (s.pc - 2) (some (max s.i.toNat 4096))))

/-- R177: FX55 then FX65 with the same X and `I` restores the registers stored; FX65 then FX55 leaves memory as it was. -/
def Obligations.StoreAndLoadRoundTrip : Prop :=
  ∀ (s t u w : State) (x : RegIdx), s.i.toNat + x.val < 4096 →
    (exec (.ldMemV x) s = .next t → u.i = t.i → u.mem = t.mem → u.params = t.params →
      exec (.ldVMem x) u = .next w → ∀ k : RegIdx, k ≤ x → w.reg k = s.reg k) ∧
    (Memory.wf s.params.fontTable s.mem = true → exec (.ldVMem x) s = .next t → exec (.ldMemV x) t = .next w →
      w.mem = s.mem)

/-- R64: bytes FX55 stored are the bytes a later fetch reads, at an odd or an even address. -/
def Obligations.StoredBytesAreFetched : Prop :=
  ∀ (s t : State) (x k j : RegIdx), s.i.toNat + x.val < 4096 → j.val = k.val + 1 → j ≤ x →
    exec (.ldMemV x) s = .next t →
    ∃ iw, State.fetch { t with pc := BitVec.ofNat 16 (s.i.toNat + k.val) } = some iw ∧
      iw.toNat = (s.reg k).toNat * 256 + (s.reg j).toNat

/-! ### The framebuffer (45_display.md) -/

/-- R190: 00E0 turns every pixel off, marks dirty and changes nothing else. -/
def Obligations.ClearTurnsEveryPixelOff : Prop :=
  ∀ s : State, ∃ t, exec .cls s = .next t ∧ t = { s with fb := t.fb, result := some (.ok true) } ∧
    ∀ y x, y < 32 → x < 64 → t.pixel y x = false

/-- DXYN where its bytes lie in memory, or N = 0: every pixel is its old value XOR the sprite's bit, origin wrapped and
body clipped; VF is 1 exactly when a sprite bit that is 1 met a lit pixel; dirty is marked; nothing else changes (R191,
R193; which bytes are checked is the spec's decision D19). -/
def Obligations.DrawXorsTheSpriteAndFlagsCollision : Prop :=
  ∀ (s : State) (x y : RegIdx) (n : BitVec 4), n = 0 ∨ s.i.toNat + n.toNat - 1 < 4096 →
    ∃ t, exec (.drw x y n) s = .next t ∧ t = { s with v := t.v, fb := t.fb, result := some (.ok true) } ∧
      (∀ py px, py < 32 → px < 64 → t.pixel py px = (s.pixel py px ^^ spriteCovers s x y n.toNat py px)) ∧
      (t.reg 15 = 0 ∨ t.reg 15 = 1) ∧
      (t.reg 15 = 1 ↔ ∃ py px, py < 32 ∧ px < 64 ∧ spriteCovers s x y n.toNat py px = true ∧ s.pixel py px = true) ∧
      ∀ k, k ≠ 15 → t.reg k = s.reg k

/-- R192: a second draw of the same sprite at the same origin restores the framebuffer; the first draw collides exactly
on a lit pixel it covers, the second exactly on one that was off before the first; and a draw from column 60 leaves
columns 0 to 3, and all others below 60, as they were. When each draw collides is the spec's own replacement of a
garbled sentence of the source (90_conflicts.md C14). -/
def Obligations.DrawingTwiceRestoresTheScreen : Prop :=
  ∀ (s t u : State) (x y : RegIdx) (n : BitVec 4), n = 0 ∨ s.i.toNat + n.toNat - 1 < 4096 →
    exec (.drw x y n) s = .next t → t.reg x = s.reg x → t.reg y = s.reg y → exec (.drw x y n) t = .next u →
    u.fb = s.fb ∧
    (t.reg 15 = 1 ↔ ∃ py px, py < 32 ∧ px < 64 ∧ spriteCovers s x y n.toNat py px = true ∧ s.pixel py px = true) ∧
    (u.reg 15 = 1 ↔ ∃ py px, py < 32 ∧ px < 64 ∧ spriteCovers s x y n.toNat py px = true ∧ s.pixel py px = false) ∧
    ((s.reg x).toNat % 64 = 60 → ∀ py px, py < 32 → px < 60 → t.pixel py px = s.pixel py px)

/-- DXYN whose bytes pass address 4095 faults with VF, the framebuffer and `dirty` untouched (the spec's decisions D5,
D19). -/
def Obligations.DrawPastMemoryFaults : Prop :=
  ∀ (s : State) (x y : RegIdx) (n : BitVec 4), n ≠ 0 → 4096 ≤ s.i.toNat + n.toNat - 1 →
    exec (.drw x y n) s = .next (haltedWith s .dataAccessOutOfBounds
      (some (BitVec.ofNat 16 (0xD000 + 256 * x.val + 16 * y.val + n.toNat))) (s.pc - 2) (some (max s.i.toNat 4096)))

/-! ### Random, keys, timers (46_timers_keys_random.md) -/

/-- R200: CXNN writes the step's random byte AND NN to `V[X]`, whatever the byte. -/
def Obligations.RandomByteIsMasked : Prop :=
  ∀ (s : State) (x : RegIdx) (nn : BitVec 8), ∃ t, exec (.rnd x nn) s = .next t ∧ OnlyReg s t x (s.rand8 &&& nn)

/-- EX9E and EXA1 skip on the level of key `V[X]`, or fault for a key number above 15 (the spec's decision D6). -/
def Obligations.KeySkipsTestTheSnapshotOrFault : Prop :=
  ∀ (s : State) (x : RegIdx),
    ((s.reg x).toNat ≤ 15 →
      exec (.skp x) s =
        .next { s with pc := if s.keys.getLsbD (s.reg x).toNat = true then s.pc + 2 else s.pc } ∧
      exec (.sknp x) s =
        .next { s with pc := if s.keys.getLsbD (s.reg x).toNat = false then s.pc + 2 else s.pc }) ∧
    (15 < (s.reg x).toNat →
      exec (.skp x) s = .next (haltedWith s .keyIndexOutOfRange (some (BitVec.ofNat 16 (0xE09E + 256 * x.val)))
        (s.pc - 2) (some (s.reg x).toNat)) ∧
      exec (.sknp x) s = .next (haltedWith s .keyIndexOutOfRange (some (BitVec.ofNat 16 (0xE0A1 + 256 * x.val)))
        (s.pc - 2) (some (s.reg x).toNat)))

/-- R204: FX0A with no key held rewinds `pc` and writes nothing else; with keys held it stores the lowest number. -/
def Obligations.KeyWaitRewindsOrStoresLowestKey : Prop :=
  ∀ (s : State) (x : RegIdx),
    (s.keys = 0 → exec (.ldVK x) s = .next { s with pc := s.pc - 2 }) ∧
    (∀ k, k < 16 → s.keys.getLsbD k = true → (∀ j, j < k → s.keys.getLsbD j = false) →
      ∃ t, exec (.ldVK x) s = .next t ∧ OnlyReg s t x (BitVec.ofNat 8 k))

/-- The wait is a loop of steps: a step on FX0A with no key held leaves `pc`, the registers and the word to be fetched as
they were; with any key held it ends after the instruction. -/
def Obligations.KeyWaitRefetchesTheSameWord : Prop :=
  ∀ (s : State) (x : RegIdx) (keys : BitVec 16) (rand8 : Byte),
    s.halted = false → s.pc.toNat ≤ 4094 → decodeWord s.wordAtPc = some (.ldVK x) →
    (keys = 0 → ∃ t, stepEvent keys rand8 s = .next t ∧ t.halted = false ∧ t.pc = s.pc ∧ t.v = s.v ∧
      t.fetch = s.fetch) ∧
    (keys ≠ 0 → ∃ t, stepEvent keys rand8 s = .next t ∧ t.halted = false ∧ t.pc = s.pc + 2 ∧
      keys.getLsbD (t.reg x).toNat = true)

/-- R203, R205, R206: FX07 reads `DT`; FX15 and FX18 write `DT` and `ST`; nothing else changes. -/
def Obligations.TimerMovesReadAndWriteTheTimers : Prop :=
  ∀ (s : State) (x : RegIdx),
    (∃ t, exec (.ldVDt x) s = .next t ∧ OnlyReg s t x s.dt) ∧
    exec (.ldDtV x) s = .next { s with dt := s.reg x } ∧
    exec (.ldStV x) s = .next { s with st := s.reg x }

/-! ### Events and reset (00_scope.md R11, 60_exceptions.md R236, 70_reset_and_hazards.md R250) -/

/-- `TimerTick`: both timers toward zero in one event, a timer at 0 stays, nothing when halted (the spec's decisions
D12, D22). -/
def Obligations.TickDecrementsBothTimersTowardZero : Prop :=
  ∀ s : State, ∃ t, event .timerTick s = .next t ∧ t = { s with dt := t.dt, st := t.st } ∧
    (s.halted = false → t.dt.toNat = s.dt.toNat - 1 ∧ t.st.toNat = s.st.toNat - 1) ∧ (s.halted = true → t = s)

/-- `Reset(image)` from any state, halted or not, and the state after reset: every register, timer and pixel 0, `pc`
0x200, the stack empty, not halted, the font at 0x050, the image at 0x200, and 0x00 elsewhere (R35, R250; the zero of
the reserved ranges, of `I`, and the font's address are the spec's decisions D13, D25, D14). -/
def Obligations.ResetGivesTheStatedState : Prop :=
  loadImage Config.Params.default [] = .next State.reset ∧
  ∀ (s : State) (image : List Byte), image.length ≤ 3584 →
    ∃ t, event (.reset image) s = .next t ∧ t.params = s.params ∧
      (∀ k, t.reg k = 0) ∧ t.i = 0 ∧ t.pc = 0x0200 ∧ t.sp = 0 ∧ t.dt = 0 ∧ t.st = 0 ∧
      (∀ y x, y < 32 → x < 64 → t.pixel y x = false) ∧ t.halted = false ∧ t.fault = none ∧
      (∀ (d : Fin 16) (r : Fin 5), t.readByte (0x050 + 5 * d.val + r.val) = s.params.fontTable[d][r]) ∧
      (∀ k b, image[k]? = some b → t.readByte (0x200 + k) = b) ∧
      ∀ a, a < 0x050 ∨ (0x0A0 ≤ a ∧ a < 0x200) ∨ (0x200 + image.length ≤ a ∧ a < 4096) → t.readByte a = 0

/-- An image of more than 3584 bytes is outside `Reset`'s domain and is refused (the spec's decision D26). -/
def Obligations.LongImageIsRefused : Prop :=
  ∀ (s : State) (image : List Byte), 3584 < image.length → event (.reset image) s = .refused .imageTooLong

/-! ### Whole-machine rules -/

/-- Every reset state under valid parameters satisfies the invariant, the machine's own reset state among them. -/
def Obligations.ResetSatisfiesTheInvariant : Prop :=
  (∀ p : Config.Params, p.Valid → Inv (State.resetWith p)) ∧ Inv State.reset

/-- Every step keeps the invariant: memory canonical and below 4096, `SP` in [0, capacity], `pc ≤ 0x10FE`, stack entries
in use at most 4096, halted exactly with a record, which the last step returned. -/
def Obligations.StepKeepsTheInvariant : Prop :=
  ∀ s t : State, Inv s → step s = .next t → Inv t

/-- So does every atomic event: `Reset` with any image, `Step` with any inputs, `TimerTick`. -/
def Obligations.EveryEventKeepsTheInvariant : Prop :=
  ∀ (e : Event) (s t : State), Inv s → event e s = .next t → Inv t

/-- A run of any length from a hardware state never stops: it is safe, or it has reached a halted state in which it
stays for good (R227, R231). -/
def Obligations.RunsSafelyOrStaysHalted : Prop :=
  ∀ (n : Nat) (s : State), Inv s → ∃ t : State, Sys2Proof.core.run n s = .next t ∧ Inv t ∧
    (SafeRun n s t ∨ (t.halted = true ∧ ∀ m, Sys2Proof.core.run m t = .next t))

/-- R37's table of writers: each part of the state changes only by the instructions listed for it, and no instruction
changes the parameters, the inputs or the driver's schedule. -/
def Obligations.EachPartIsWrittenOnlyByItsInstructions : Prop :=
  ∀ (i : Instr) (s t : State), exec i s = .next t →
    (t.v ≠ s.v → WritesReg i) ∧ (t.pc ≠ s.pc → WritesPc i) ∧
    (t.i ≠ s.i → (∃ nnn, i = .ldI nnn) ∨ (∃ x, i = .addI x) ∨ ∃ x, i = .ldF x) ∧
    (t.stack ≠ s.stack → ∃ nnn, i = .call nnn) ∧ (t.sp ≠ s.sp → i = .ret ∨ ∃ nnn, i = .call nnn) ∧
    (t.dt ≠ s.dt → ∃ x, i = .ldDtV x) ∧ (t.st ≠ s.st → ∃ x, i = .ldStV x) ∧
    (t.fb ≠ s.fb → i = .cls ∨ ∃ x y n, i = .drw x y n) ∧
    (t.mem ≠ s.mem → (∃ x, i = .ldB x) ∨ ∃ x, i = .ldMemV x) ∧
    t.params = s.params ∧ t.keys = s.keys ∧ t.rand8 = s.rand8 ∧ t.schedule = s.schedule ∧ t.draws = s.draws

/-- R21: VF changes only by the flag-writing instructions and where it is the named destination. -/
def Obligations.VFChangesOnlyAsFlagOrNamedDestination : Prop :=
  ∀ (i : Instr) (s t : State), exec i s = .next t → t.reg 15 ≠ s.reg 15 → WritesFlag i ∨ NamesVF i

/-- R31, R32: no instruction but EX9E, EXA1 and FX0A learns anything of the keys, and none but CXNN of the random byte:
run with other inputs, it does the same. -/
def Obligations.InputsAreReadOnlyWhereStated : Prop :=
  ∀ (i : Instr) (s t : State) (keys : BitVec 16) (rand8 : Byte), exec i s = .next t →
    (¬ ReadsKeys i → exec i { s with keys := keys } = .next { t with keys := keys }) ∧
    ((∀ x nn, i ≠ .rnd x nn) → exec i { s with rand8 := rand8 } = .next { t with rand8 := rand8 })
end

