-- ==== Sys2Proof/Laws/State.lean ====
section
/-! SUPPORT. One lemma per field per primitive update of State, so that no proof unfolds a record update; the composed
updates (skip, rewind, advance, setFlagThenReg) are unfolded to these. -/

namespace Sys2Proof.Machine.State

/-! ### setReg -/

section
variable (s : State) (x : RegIdx) (b : Byte)

@[simp] theorem setReg_params : (s.setReg x b).params = s.params := rfl
@[simp] theorem setReg_v : (s.setReg x b).v = s.v.set x.val b := rfl
@[simp] theorem setReg_i : (s.setReg x b).i = s.i := rfl
@[simp] theorem setReg_pc : (s.setReg x b).pc = s.pc := rfl
@[simp] theorem setReg_stack : (s.setReg x b).stack = s.stack := rfl
@[simp] theorem setReg_sp : (s.setReg x b).sp = s.sp := rfl
@[simp] theorem setReg_dt : (s.setReg x b).dt = s.dt := rfl
@[simp] theorem setReg_st : (s.setReg x b).st = s.st := rfl
@[simp] theorem setReg_fb : (s.setReg x b).fb = s.fb := rfl
@[simp] theorem setReg_mem : (s.setReg x b).mem = s.mem := rfl
@[simp] theorem setReg_halted : (s.setReg x b).halted = s.halted := rfl
@[simp] theorem setReg_fault : (s.setReg x b).fault = s.fault := rfl
@[simp] theorem setReg_keys : (s.setReg x b).keys = s.keys := rfl
@[simp] theorem setReg_rand8 : (s.setReg x b).rand8 = s.rand8 := rfl
@[simp] theorem setReg_result : (s.setReg x b).result = s.result := rfl
@[simp] theorem setReg_schedule : (s.setReg x b).schedule = s.schedule := rfl
@[simp] theorem setReg_draws : (s.setReg x b).draws = s.draws := rfl

end

/-! ### setIndex -/

section
variable (s : State) (w : Word)

@[simp] theorem setIndex_params : (s.setIndex w).params = s.params := rfl
@[simp] theorem setIndex_v : (s.setIndex w).v = s.v := rfl
@[simp] theorem setIndex_i : (s.setIndex w).i = w := rfl
@[simp] theorem setIndex_pc : (s.setIndex w).pc = s.pc := rfl
@[simp] theorem setIndex_stack : (s.setIndex w).stack = s.stack := rfl
@[simp] theorem setIndex_sp : (s.setIndex w).sp = s.sp := rfl
@[simp] theorem setIndex_dt : (s.setIndex w).dt = s.dt := rfl
@[simp] theorem setIndex_st : (s.setIndex w).st = s.st := rfl
@[simp] theorem setIndex_fb : (s.setIndex w).fb = s.fb := rfl
@[simp] theorem setIndex_mem : (s.setIndex w).mem = s.mem := rfl
@[simp] theorem setIndex_halted : (s.setIndex w).halted = s.halted := rfl
@[simp] theorem setIndex_fault : (s.setIndex w).fault = s.fault := rfl
@[simp] theorem setIndex_keys : (s.setIndex w).keys = s.keys := rfl
@[simp] theorem setIndex_rand8 : (s.setIndex w).rand8 = s.rand8 := rfl
@[simp] theorem setIndex_result : (s.setIndex w).result = s.result := rfl
@[simp] theorem setIndex_schedule : (s.setIndex w).schedule = s.schedule := rfl
@[simp] theorem setIndex_draws : (s.setIndex w).draws = s.draws := rfl

end

/-! ### setPc -/

section
variable (s : State) (w : Word)

@[simp] theorem setPc_params : (s.setPc w).params = s.params := rfl
@[simp] theorem setPc_v : (s.setPc w).v = s.v := rfl
@[simp] theorem setPc_i : (s.setPc w).i = s.i := rfl
@[simp] theorem setPc_pc : (s.setPc w).pc = w := rfl
@[simp] theorem setPc_stack : (s.setPc w).stack = s.stack := rfl
@[simp] theorem setPc_sp : (s.setPc w).sp = s.sp := rfl
@[simp] theorem setPc_dt : (s.setPc w).dt = s.dt := rfl
@[simp] theorem setPc_st : (s.setPc w).st = s.st := rfl
@[simp] theorem setPc_fb : (s.setPc w).fb = s.fb := rfl
@[simp] theorem setPc_mem : (s.setPc w).mem = s.mem := rfl
@[simp] theorem setPc_halted : (s.setPc w).halted = s.halted := rfl
@[simp] theorem setPc_fault : (s.setPc w).fault = s.fault := rfl
@[simp] theorem setPc_keys : (s.setPc w).keys = s.keys := rfl
@[simp] theorem setPc_rand8 : (s.setPc w).rand8 = s.rand8 := rfl
@[simp] theorem setPc_result : (s.setPc w).result = s.result := rfl
@[simp] theorem setPc_schedule : (s.setPc w).schedule = s.schedule := rfl
@[simp] theorem setPc_draws : (s.setPc w).draws = s.draws := rfl

end

/-! ### setDelay -/

section
variable (s : State) (b : Byte)

@[simp] theorem setDelay_params : (s.setDelay b).params = s.params := rfl
@[simp] theorem setDelay_v : (s.setDelay b).v = s.v := rfl
@[simp] theorem setDelay_i : (s.setDelay b).i = s.i := rfl
@[simp] theorem setDelay_pc : (s.setDelay b).pc = s.pc := rfl
@[simp] theorem setDelay_stack : (s.setDelay b).stack = s.stack := rfl
@[simp] theorem setDelay_sp : (s.setDelay b).sp = s.sp := rfl
@[simp] theorem setDelay_dt : (s.setDelay b).dt = b := rfl
@[simp] theorem setDelay_st : (s.setDelay b).st = s.st := rfl
@[simp] theorem setDelay_fb : (s.setDelay b).fb = s.fb := rfl
@[simp] theorem setDelay_mem : (s.setDelay b).mem = s.mem := rfl
@[simp] theorem setDelay_halted : (s.setDelay b).halted = s.halted := rfl
@[simp] theorem setDelay_fault : (s.setDelay b).fault = s.fault := rfl
@[simp] theorem setDelay_keys : (s.setDelay b).keys = s.keys := rfl
@[simp] theorem setDelay_rand8 : (s.setDelay b).rand8 = s.rand8 := rfl
@[simp] theorem setDelay_result : (s.setDelay b).result = s.result := rfl
@[simp] theorem setDelay_schedule : (s.setDelay b).schedule = s.schedule := rfl
@[simp] theorem setDelay_draws : (s.setDelay b).draws = s.draws := rfl

end

/-! ### setSound -/

section
variable (s : State) (b : Byte)

@[simp] theorem setSound_params : (s.setSound b).params = s.params := rfl
@[simp] theorem setSound_v : (s.setSound b).v = s.v := rfl
@[simp] theorem setSound_i : (s.setSound b).i = s.i := rfl
@[simp] theorem setSound_pc : (s.setSound b).pc = s.pc := rfl
@[simp] theorem setSound_stack : (s.setSound b).stack = s.stack := rfl
@[simp] theorem setSound_sp : (s.setSound b).sp = s.sp := rfl
@[simp] theorem setSound_dt : (s.setSound b).dt = s.dt := rfl
@[simp] theorem setSound_st : (s.setSound b).st = b := rfl
@[simp] theorem setSound_fb : (s.setSound b).fb = s.fb := rfl
@[simp] theorem setSound_mem : (s.setSound b).mem = s.mem := rfl
@[simp] theorem setSound_halted : (s.setSound b).halted = s.halted := rfl
@[simp] theorem setSound_fault : (s.setSound b).fault = s.fault := rfl
@[simp] theorem setSound_keys : (s.setSound b).keys = s.keys := rfl
@[simp] theorem setSound_rand8 : (s.setSound b).rand8 = s.rand8 := rfl
@[simp] theorem setSound_result : (s.setSound b).result = s.result := rfl
@[simp] theorem setSound_schedule : (s.setSound b).schedule = s.schedule := rfl
@[simp] theorem setSound_draws : (s.setSound b).draws = s.draws := rfl

end

/-! ### setDirty -/

section
variable (s : State) (d : Bool)

@[simp] theorem setDirty_params : (s.setDirty d).params = s.params := rfl
@[simp] theorem setDirty_v : (s.setDirty d).v = s.v := rfl
@[simp] theorem setDirty_i : (s.setDirty d).i = s.i := rfl
@[simp] theorem setDirty_pc : (s.setDirty d).pc = s.pc := rfl
@[simp] theorem setDirty_stack : (s.setDirty d).stack = s.stack := rfl
@[simp] theorem setDirty_sp : (s.setDirty d).sp = s.sp := rfl
@[simp] theorem setDirty_dt : (s.setDirty d).dt = s.dt := rfl
@[simp] theorem setDirty_st : (s.setDirty d).st = s.st := rfl
@[simp] theorem setDirty_fb : (s.setDirty d).fb = s.fb := rfl
@[simp] theorem setDirty_mem : (s.setDirty d).mem = s.mem := rfl
@[simp] theorem setDirty_halted : (s.setDirty d).halted = s.halted := rfl
@[simp] theorem setDirty_fault : (s.setDirty d).fault = s.fault := rfl
@[simp] theorem setDirty_keys : (s.setDirty d).keys = s.keys := rfl
@[simp] theorem setDirty_rand8 : (s.setDirty d).rand8 = s.rand8 := rfl
@[simp] theorem setDirty_result : (s.setDirty d).result = some (.ok d) := rfl
@[simp] theorem setDirty_schedule : (s.setDirty d).schedule = s.schedule := rfl
@[simp] theorem setDirty_draws : (s.setDirty d).draws = s.draws := rfl

end

/-! ### push -/

section
variable (s : State) (w : Word)

@[simp] theorem push_params : (s.push w).params = s.params := rfl
@[simp] theorem push_v : (s.push w).v = s.v := rfl
@[simp] theorem push_i : (s.push w).i = s.i := rfl
@[simp] theorem push_pc : (s.push w).pc = s.pc := rfl
@[simp] theorem push_stack : (s.push w).stack = s.stack.set s.sp w := rfl
@[simp] theorem push_sp : (s.push w).sp = s.sp + 1 := rfl
@[simp] theorem push_dt : (s.push w).dt = s.dt := rfl
@[simp] theorem push_st : (s.push w).st = s.st := rfl
@[simp] theorem push_fb : (s.push w).fb = s.fb := rfl
@[simp] theorem push_mem : (s.push w).mem = s.mem := rfl
@[simp] theorem push_halted : (s.push w).halted = s.halted := rfl
@[simp] theorem push_fault : (s.push w).fault = s.fault := rfl
@[simp] theorem push_keys : (s.push w).keys = s.keys := rfl
@[simp] theorem push_rand8 : (s.push w).rand8 = s.rand8 := rfl
@[simp] theorem push_result : (s.push w).result = s.result := rfl
@[simp] theorem push_schedule : (s.push w).schedule = s.schedule := rfl
@[simp] theorem push_draws : (s.push w).draws = s.draws := rfl

end

/-! ### popTo -/

section
variable (s : State) (w : Word)

@[simp] theorem popTo_params : (s.popTo w).params = s.params := rfl
@[simp] theorem popTo_v : (s.popTo w).v = s.v := rfl
@[simp] theorem popTo_i : (s.popTo w).i = s.i := rfl
@[simp] theorem popTo_pc : (s.popTo w).pc = w := rfl
@[simp] theorem popTo_stack : (s.popTo w).stack = s.stack := rfl
@[simp] theorem popTo_sp : (s.popTo w).sp = s.sp - 1 := rfl
@[simp] theorem popTo_dt : (s.popTo w).dt = s.dt := rfl
@[simp] theorem popTo_st : (s.popTo w).st = s.st := rfl
@[simp] theorem popTo_fb : (s.popTo w).fb = s.fb := rfl
@[simp] theorem popTo_mem : (s.popTo w).mem = s.mem := rfl
@[simp] theorem popTo_halted : (s.popTo w).halted = s.halted := rfl
@[simp] theorem popTo_fault : (s.popTo w).fault = s.fault := rfl
@[simp] theorem popTo_keys : (s.popTo w).keys = s.keys := rfl
@[simp] theorem popTo_rand8 : (s.popTo w).rand8 = s.rand8 := rfl
@[simp] theorem popTo_result : (s.popTo w).result = s.result := rfl
@[simp] theorem popTo_schedule : (s.popTo w).schedule = s.schedule := rfl
@[simp] theorem popTo_draws : (s.popTo w).draws = s.draws := rfl

end

/-! ### raise -/

section
variable (s : State) (c : FaultCause) (iw : Option Word) (p : Word) (a : Option Nat)

@[simp] theorem raise_params : (s.raise c iw p a).params = s.params := rfl
@[simp] theorem raise_v : (s.raise c iw p a).v = s.v := rfl
@[simp] theorem raise_i : (s.raise c iw p a).i = s.i := rfl
@[simp] theorem raise_pc : (s.raise c iw p a).pc = s.pc := rfl
@[simp] theorem raise_stack : (s.raise c iw p a).stack = s.stack := rfl
@[simp] theorem raise_sp : (s.raise c iw p a).sp = s.sp := rfl
@[simp] theorem raise_dt : (s.raise c iw p a).dt = s.dt := rfl
@[simp] theorem raise_st : (s.raise c iw p a).st = s.st := rfl
@[simp] theorem raise_fb : (s.raise c iw p a).fb = s.fb := rfl
@[simp] theorem raise_mem : (s.raise c iw p a).mem = s.mem := rfl
@[simp] theorem raise_halted : (s.raise c iw p a).halted = true := rfl
@[simp] theorem raise_fault : (s.raise c iw p a).fault = some ⟨c, iw, p, a⟩ := rfl
@[simp] theorem raise_keys : (s.raise c iw p a).keys = s.keys := rfl
@[simp] theorem raise_rand8 : (s.raise c iw p a).rand8 = s.rand8 := rfl
@[simp] theorem raise_result : (s.raise c iw p a).result = some (.fault ⟨c, iw, p, a⟩) := rfl
@[simp] theorem raise_schedule : (s.raise c iw p a).schedule = s.schedule := rfl
@[simp] theorem raise_draws : (s.raise c iw p a).draws = s.draws := rfl

end

/-! ### writeBytes -/

section
variable (s : State) (a : Nat) (bs : List Byte)

@[simp] theorem writeBytes_params : (s.writeBytes a bs).params = s.params := rfl
@[simp] theorem writeBytes_v : (s.writeBytes a bs).v = s.v := rfl
@[simp] theorem writeBytes_i : (s.writeBytes a bs).i = s.i := rfl
@[simp] theorem writeBytes_pc : (s.writeBytes a bs).pc = s.pc := rfl
@[simp] theorem writeBytes_stack : (s.writeBytes a bs).stack = s.stack := rfl
@[simp] theorem writeBytes_sp : (s.writeBytes a bs).sp = s.sp := rfl
@[simp] theorem writeBytes_dt : (s.writeBytes a bs).dt = s.dt := rfl
@[simp] theorem writeBytes_st : (s.writeBytes a bs).st = s.st := rfl
@[simp] theorem writeBytes_fb : (s.writeBytes a bs).fb = s.fb := rfl
@[simp] theorem writeBytes_mem : (s.writeBytes a bs).mem = s.mem.writeList s.params.fontTable a bs := rfl
@[simp] theorem writeBytes_halted : (s.writeBytes a bs).halted = s.halted := rfl
@[simp] theorem writeBytes_fault : (s.writeBytes a bs).fault = s.fault := rfl
@[simp] theorem writeBytes_keys : (s.writeBytes a bs).keys = s.keys := rfl
@[simp] theorem writeBytes_rand8 : (s.writeBytes a bs).rand8 = s.rand8 := rfl
@[simp] theorem writeBytes_result : (s.writeBytes a bs).result = s.result := rfl
@[simp] theorem writeBytes_schedule : (s.writeBytes a bs).schedule = s.schedule := rfl
@[simp] theorem writeBytes_draws : (s.writeBytes a bs).draws = s.draws := rfl

end

/-! ### sample -/

section
variable (s : State) (k : BitVec 16) (r : Byte)

@[simp] theorem sample_params : (s.sample k r).params = s.params := rfl
@[simp] theorem sample_v : (s.sample k r).v = s.v := rfl
@[simp] theorem sample_i : (s.sample k r).i = s.i := rfl
@[simp] theorem sample_pc : (s.sample k r).pc = s.pc := rfl
@[simp] theorem sample_stack : (s.sample k r).stack = s.stack := rfl
@[simp] theorem sample_sp : (s.sample k r).sp = s.sp := rfl
@[simp] theorem sample_dt : (s.sample k r).dt = s.dt := rfl
@[simp] theorem sample_st : (s.sample k r).st = s.st := rfl
@[simp] theorem sample_fb : (s.sample k r).fb = s.fb := rfl
@[simp] theorem sample_mem : (s.sample k r).mem = s.mem := rfl
@[simp] theorem sample_halted : (s.sample k r).halted = s.halted := rfl
@[simp] theorem sample_fault : (s.sample k r).fault = s.fault := rfl
@[simp] theorem sample_keys : (s.sample k r).keys = k := rfl
@[simp] theorem sample_rand8 : (s.sample k r).rand8 = r := rfl
@[simp] theorem sample_result : (s.sample k r).result = s.result := rfl
@[simp] theorem sample_schedule : (s.sample k r).schedule = s.schedule := rfl
@[simp] theorem sample_draws : (s.sample k r).draws = s.draws := rfl

end

/-! ### runTicks -/

section
variable (s : State) (n : Nat)

@[simp] theorem runTicks_params : (s.runTicks n).params = s.params := rfl
@[simp] theorem runTicks_v : (s.runTicks n).v = s.v := rfl
@[simp] theorem runTicks_i : (s.runTicks n).i = s.i := rfl
@[simp] theorem runTicks_pc : (s.runTicks n).pc = s.pc := rfl
@[simp] theorem runTicks_stack : (s.runTicks n).stack = s.stack := rfl
@[simp] theorem runTicks_sp : (s.runTicks n).sp = s.sp := rfl
@[simp] theorem runTicks_dt : (s.runTicks n).dt = tickTimerTimes n s.dt := rfl
@[simp] theorem runTicks_st : (s.runTicks n).st = tickTimerTimes n s.st := rfl
@[simp] theorem runTicks_fb : (s.runTicks n).fb = s.fb := rfl
@[simp] theorem runTicks_mem : (s.runTicks n).mem = s.mem := rfl
@[simp] theorem runTicks_halted : (s.runTicks n).halted = s.halted := rfl
@[simp] theorem runTicks_fault : (s.runTicks n).fault = s.fault := rfl
@[simp] theorem runTicks_keys : (s.runTicks n).keys = s.keys := rfl
@[simp] theorem runTicks_rand8 : (s.runTicks n).rand8 = s.rand8 := rfl
@[simp] theorem runTicks_result : (s.runTicks n).result = s.result := rfl
@[simp] theorem runTicks_schedule : (s.runTicks n).schedule = s.schedule := rfl
@[simp] theorem runTicks_draws : (s.runTicks n).draws = s.draws := rfl

end

/-! ### the composed updates, in terms of the primitive ones -/

@[simp] theorem skip_eq (s : State) : s.skip = s.setPc (s.pc + 2) := rfl
@[simp] theorem rewind_eq (s : State) : s.rewind = s.setPc (s.pc - 2) := rfl
@[simp] theorem advance_eq (s : State) : s.advance = (s.setPc (s.pc + 2)).setDirty false := rfl
@[simp] theorem setFlagThenReg_eq (s : State) (f : Byte) (x : RegIdx) (b : Byte) :
    s.setFlagThenReg f x b = (s.setReg vF f).setReg x b := rfl
@[simp] theorem raiseFrom_eq (s : State) (i : Instr) (c : FaultCause) (a : Option Nat) :
    s.raiseFrom i c a = s.raise c (some (encode i)) (s.pc - 2) a := rfl

end Sys2Proof.Machine.State
end

