-- ==== Sys2Proof/Laws/Display.lean ====
section
/-! SUPPORT. The draw loop of R191 said of one pixel: after the loop a pixel is its old value XOR the sprite's bit, and
a collision was found exactly where a sprite bit that is 1 met a pixel that was on before the draw. -/

namespace Sys2Proof.Machine

/-! ### one pixel of the grid -/

theorem Framebuffer.get_set (fb : Framebuffer) (y x : Nat) (b : Bool) (y' x' : Nat) :
    Framebuffer.get (Framebuffer.set fb y x b) y' x' =
      if y = y' ∧ x = x' ∧ y < 32 ∧ x < 64 then b else Framebuffer.get fb y' x' := by
  unfold Framebuffer.get Framebuffer.set
  by_cases h : y < 32 ∧ x < 64
  · by_cases h' : y' < 32 ∧ x' < 64
    · simp only [h, h', and_self, dite_true, Vector.getElem_set]
      by_cases hy : y = y'
      · subst hy; by_cases hx : x = x' <;> simp [hx]
      · simp [hy]
    · have : ¬ (y = y' ∧ x = x') := fun e => h' (by omega)
      simp only [h, h', dite_false, and_true]
      by_cases hy : y = y'
      · have hx : ¬ x = x' := fun e => this ⟨hy, e⟩
        simp [hx]
      · simp [hy]
  · simp [h]

@[simp] theorem Framebuffer.get_blank (y x : Nat) : Framebuffer.get Framebuffer.blank y x = false := by
  unfold Framebuffer.get Framebuffer.blank
  split <;> simp

/-- Two framebuffers that agree on every pixel of the grid are the same framebuffer. -/
theorem Framebuffer.ext_get (f g : Framebuffer)
    (h : ∀ y x, y < 32 → x < 64 → Framebuffer.get f y x = Framebuffer.get g y x) : f = g := by
  apply Vector.ext; intro y hy
  apply Vector.ext; intro x hx
  simpa [Framebuffer.get, hy, hx] using h y x hy hx

/-! ### one sprite bit, one row, the whole sprite -/

theorem get_drawBit (y x : Nat) (bit : Bool) (c : Canvas) (y' x' : Nat) (hy : y' < 32) (hx : x' < 64) :
    Framebuffer.get (drawBit y x bit c).1 y' x' = (Framebuffer.get c.1 y' x' ^^ (decide (y = y' ∧ x = x') && bit)) := by
  unfold drawBit
  by_cases h : y = y' ∧ x = x'
  · obtain ⟨rfl, rfl⟩ := h
    simp [hy, hx, Framebuffer.get_set]
  · split
    · rw [Framebuffer.get_set, if_neg (fun e => h ⟨e.1, e.2.1⟩)]; simp [h]
    · simp [h]

/-- What the bits of one byte do to a pixel. -/
theorem get_drawBits (y x0 : Nat) (b : Byte) (ks : List Nat) (hn : ks.Nodup) (c : Canvas) (y' x' : Nat) (hy : y' < 32)
    (hx : x' < 64) :
    Framebuffer.get (drawBits y x0 b ks c).1 y' x' =
      (Framebuffer.get c.1 y' x' ^^ (decide (y = y' ∧ x0 ≤ x' ∧ x' - x0 ∈ ks) && b.getLsbD (7 - (x' - x0)))) := by
  induction ks generalizing c with
  | nil => simp [drawBits]
  | cons k ks ih =>
    rw [List.nodup_cons] at hn
    rw [drawBits, ih hn.2, get_drawBit _ _ _ _ _ _ hy hx]
    by_cases h : y = y' ∧ x0 + k = x'
    · obtain ⟨rfl, rfl⟩ := h
      simp [hn.1]
    · by_cases h2 : y = y' ∧ x0 ≤ x' ∧ x' - x0 ∈ ks
      · have h3 : y = y' ∧ x0 ≤ x' ∧ x' - x0 ∈ k :: ks := ⟨h2.1, h2.2.1, List.mem_cons_of_mem _ h2.2.2⟩
        rw [decide_eq_false h, decide_eq_true h2, decide_eq_true h3]; simp
      · have h3 : ¬ (y = y' ∧ x0 ≤ x' ∧ x' - x0 ∈ k :: ks) := by
          rintro ⟨e1, e2, e3⟩
          rcases List.mem_cons.1 e3 with e | e
          · exact h ⟨e1, by omega⟩
          · exact h2 ⟨e1, e2, e⟩
        rw [decide_eq_false h, decide_eq_false h2, decide_eq_false h3]; simp

/-- When the bits of one byte find a collision. -/
theorem snd_drawBits (y x0 : Nat) (b : Byte) (ks : List Nat) (hn : ks.Nodup) (c : Canvas) :
    (drawBits y x0 b ks c).2 = true ↔ c.2 = true ∨
      ∃ k ∈ ks, y < 32 ∧ x0 + k < 64 ∧ b.getLsbD (7 - k) = true ∧ Framebuffer.get c.1 y (x0 + k) = true := by
  induction ks generalizing c with
  | nil => simp [drawBits]
  | cons k ks ih =>
    rw [List.nodup_cons] at hn
    rw [drawBits, ih hn.2]
    have hfst : ∀ j ∈ ks, y < 32 → x0 + j < 64 →
        Framebuffer.get (drawBit y (x0 + k) (b.getLsbD (7 - k)) c).1 y (x0 + j) = Framebuffer.get c.1 y (x0 + j) := by
      intro j hj h1 h2
      have hkj : ¬ k = j := fun e => hn.1 (e ▸ hj)
      rw [get_drawBit _ _ _ _ _ _ h1 h2]; simp [hkj]
    have hsnd : (drawBit y (x0 + k) (b.getLsbD (7 - k)) c).2 = true ↔ c.2 = true ∨
        (y < 32 ∧ x0 + k < 64 ∧ b.getLsbD (7 - k) = true ∧ Framebuffer.get c.1 y (x0 + k) = true) := by
      unfold drawBit
      split
      · rename_i h; simp [h.1, h.2]
      · rename_i h; constructor
        · exact Or.inl
        · rintro (e | ⟨e1, e2, _⟩)
          · exact e
          · exact absurd ⟨e1, e2⟩ h
    rw [hsnd]
    constructor
    · rintro ((h | h) | ⟨j, hj, h1, h2, h3, h4⟩)
      · exact Or.inl h
      · exact Or.inr ⟨k, List.mem_cons_self, h⟩
      · exact Or.inr ⟨j, List.mem_cons_of_mem _ hj, h1, h2, h3, hfst j hj h1 h2 ▸ h4⟩
    · rintro (h | ⟨j, hj, h1, h2, h3, h4⟩)
      · exact Or.inl (Or.inl h)
      · rcases List.mem_cons.1 hj with rfl | hj
        · exact Or.inl (Or.inr ⟨h1, h2, h3, h4⟩)
        · exact Or.inr ⟨j, hj, h1, h2, h3, (hfst j hj h1 h2).symm ▸ h4⟩

theorem get_drawRow (y x0 : Nat) (b : Byte) (c : Canvas) (y' x' : Nat) (hy : y' < 32) (hx : x' < 64) :
    Framebuffer.get (drawRow y x0 b c).1 y' x' =
      (Framebuffer.get c.1 y' x' ^^ (decide (y = y' ∧ x0 ≤ x' ∧ x' < x0 + 8) && b.getLsbD (7 - (x' - x0)))) := by
  rw [drawRow, get_drawBits _ _ _ _ (by decide) _ _ _ hy hx]
  have : (x0 ≤ x' ∧ x' - x0 ∈ [0, 1, 2, 3, 4, 5, 6, 7]) ↔ (x0 ≤ x' ∧ x' < x0 + 8) := by
    simp only [List.mem_cons, List.not_mem_nil, or_false]; omega
  simp only [this]

theorem snd_drawRow (y x0 : Nat) (b : Byte) (c : Canvas) :
    (drawRow y x0 b c).2 = true ↔ c.2 = true ∨
      ∃ x, x0 ≤ x ∧ x < x0 + 8 ∧ y < 32 ∧ x < 64 ∧ b.getLsbD (7 - (x - x0)) = true ∧ Framebuffer.get c.1 y x = true := by
  rw [drawRow, snd_drawBits _ _ _ _ (by decide)]
  refine or_congr Iff.rfl ⟨?_, ?_⟩
  · rintro ⟨k, hk, h1, h2, h3, h4⟩
    have hk8 : k < 8 := by
      simp only [List.mem_cons, List.not_mem_nil, or_false] at hk; omega
    exact ⟨x0 + k, by omega, by omega, h1, h2, by simpa using h3, h4⟩
  · rintro ⟨x, h0, h8, h1, h2, h3, h4⟩
    refine ⟨x - x0, ?_, h1, ?_, h3, ?_⟩
    · simp only [List.mem_cons, List.not_mem_nil, or_false]; omega
    · omega
    · have : x0 + (x - x0) = x := by omega
      rwa [this]

/-- The bit a sprite `bs` drawn from origin row `y0`, column `x0` puts on row `y`, column `x`; 0 where the sprite does
not reach. -/
def spriteBit (y0 x0 : Nat) (bs : List Byte) (y x : Nat) : Bool :=
  decide (y0 ≤ y) && decide (x0 ≤ x) && decide (x < x0 + 8) && (bs.getD (y - y0) 0).getLsbD (7 - (x - x0))

/-- The sprite's bit, row by row. -/
theorem spriteBit_cons (y0 x0 : Nat) (b : Byte) (bs : List Byte) (y x : Nat) :
    spriteBit y0 x0 (b :: bs) y x =
      (decide (y0 = y ∧ x0 ≤ x ∧ x < x0 + 8) && b.getLsbD (7 - (x - x0)) || spriteBit (y0 + 1) x0 bs y x) := by
  unfold spriteBit
  by_cases h : y0 = y
  · subst h
    have : ¬ y0 + 1 ≤ y0 := by omega
    simp [Bool.and_assoc]
  · by_cases h1 : y0 + 1 ≤ y
    · have h2 : y0 ≤ y := by omega
      have h3 : y - y0 = (y - (y0 + 1)) + 1 := by omega
      simp [h, h1, h2, h3]
    · have h2 : ¬ y0 ≤ y := by omega
      simp [h, h1, h2]

/-- A row of the sprite puts no bit above itself. -/
theorem spriteBit_above (y0 x0 : Nat) (bs : List Byte) (y x : Nat) (h : y < y0) : spriteBit y0 x0 bs y x = false := by
  simp [spriteBit, Nat.not_le.2 h]

/-- After the draw loop a pixel is its old value XOR the sprite's bit (R191). -/
theorem get_drawRows (bs : List Byte) (y0 x0 : Nat) (c : Canvas) (y x : Nat) (hy : y < 32) (hx : x < 64) :
    Framebuffer.get (drawRows y0 x0 bs c).1 y x = (Framebuffer.get c.1 y x ^^ spriteBit y0 x0 bs y x) := by
  induction bs generalizing y0 c with
  | nil => simp [drawRows, spriteBit]
  | cons b bs ih =>
    rw [drawRows, ih, get_drawRow _ _ _ _ _ _ hy hx, spriteBit_cons]
    by_cases h : y0 = y
    · subst h; simp [spriteBit_above]
    · simp [h]

/-- The draw loop finds a collision exactly where a sprite bit that is 1 lands, unclipped, on a pixel that was on
before the draw (R191). -/
theorem snd_drawRows (bs : List Byte) (y0 x0 : Nat) (c : Canvas) :
    (drawRows y0 x0 bs c).2 = true ↔ c.2 = true ∨
      ∃ y x, y < 32 ∧ x < 64 ∧ spriteBit y0 x0 bs y x = true ∧ Framebuffer.get c.1 y x = true := by
  induction bs generalizing y0 c with
  | nil => simp [drawRows, spriteBit]
  | cons b bs ih =>
    rw [drawRows, ih, snd_drawRow]
    constructor
    · rintro ((h | ⟨x, h0, h8, h1, h2, h3, h4⟩) | ⟨y, x, h1, h2, h3, h4⟩)
      · exact Or.inl h
      · exact Or.inr ⟨y0, x, h1, h2, by simp [spriteBit_cons, h0, h8, h3], h4⟩
      · refine Or.inr ⟨y, x, h1, h2, by simp [spriteBit_cons, h3], ?_⟩
        have hne : ¬ y0 = y := by
          rintro rfl; rw [spriteBit_above _ _ _ _ _ (Nat.lt_succ_self _)] at h3; simp at h3
        rw [get_drawRow _ _ _ _ _ _ h1 h2] at h4; simpa [hne] using h4
    · rintro (h | ⟨y, x, h1, h2, h3, h4⟩)
      · exact Or.inl (Or.inl h)
      · rw [spriteBit_cons, Bool.or_eq_true, Bool.and_eq_true, decide_eq_true_eq] at h3
        rcases h3 with ⟨⟨rfl, h5, h6⟩, h7⟩ | h3
        · exact Or.inl (Or.inr ⟨x, h5, h6, h1, h2, h7, h4⟩)
        · refine Or.inr ⟨y, x, h1, h2, h3, ?_⟩
          have hne : ¬ y0 = y := by
            rintro rfl; rw [spriteBit_above _ _ _ _ _ (Nat.lt_succ_self _)] at h3; simp at h3
          rw [get_drawRow _ _ _ _ _ _ h1 h2]; simpa [hne] using h4

end Sys2Proof.Machine
end

