-- ==== Sys2Proof/Laws/Memory.lean ====
section
/-! SUPPORT. The laws of memory: a read after a write, every other address left alone, and the canonical form kept by
every operation (20_memory.md R59, R62). None of the read laws needs the canonical form. -/

namespace Sys2Proof.Machine.Memory

variable (font : Config.FontTable)

/-! ### finding a cell after put and drop -/

theorem find_put (m : Memory) (a : Nat) (b : Byte) (k : Nat) :
    (m.put a b).find k = if a = k then some b else m.find k := by
  induction m with
  | nil => rfl
  | cons c m ih =>
    obtain ⟨j, d⟩ := c
    simp only [put]
    split
    · rfl
    · split
      · rename_i h; subst h; by_cases h : a = k <;> simp [find, h]
      · by_cases hj : j = k
        · subst hj; rename_i h; simp [find, h]
        · simp [find, hj, ih]

theorem find_drop (m : Memory) (a k : Nat) :
    (m.drop a).find k = if a = k then none else m.find k := by
  induction m with
  | nil => simp [drop, find]
  | cons c m ih =>
    obtain ⟨j, d⟩ := c
    simp only [drop]
    split
    · rename_i h; subst h; rw [ih]; by_cases h : j = k <;> simp [find, h]
    · by_cases hj : j = k
      · subst hj; rename_i h; simp [find, Ne.symm h]
      · simp [find, hj, ih]

/-! ### reading after writing -/

/-- A read returns the value last written there, and a write leaves every other address alone (R59). -/
theorem read_write (m : Memory) (a : Nat) (b : Byte) (k : Nat) :
    (m.write font a b).read font k = if a = k then b else m.read font k := by
  unfold write read
  split
  · rw [find_drop]; by_cases h : a = k <;> simp_all
  · rw [find_put]; by_cases h : a = k <;> simp_all

/-- Bytes stored from `a` on read back in place; every address outside them reads as before. -/
theorem read_writeList (bs : List Byte) (m : Memory) (a k : Nat) :
    (m.writeList font a bs).read font k =
      if a ≤ k ∧ k < a + bs.length then bs.getD (k - a) 0 else m.read font k := by
  induction bs generalizing m a with
  | nil =>
    have : ¬ (a ≤ k ∧ k < a) := by omega
    simp [writeList, this]
  | cons b bs ih =>
    rw [writeList, ih, read_write]
    by_cases h : a = k
    · subst h; simp
    · by_cases h2 : a + 1 ≤ k ∧ k < a + 1 + bs.length
      · have h3 : a ≤ k ∧ k < a + (bs.length + 1) := by omega
        have h4 : k - a = (k - (a + 1)) + 1 := by omega
        simp [h2, h3, h4]
      · have h3 : ¬ (a ≤ k ∧ k < a + (bs.length + 1)) := by omega
        rw [if_neg h2, if_neg h, List.length_cons, if_neg h3]

/-! ### the canonical form -/

theorem wfFrom_mono {lo lo' : Nat} (h : lo' ≤ lo) (m : Memory) (hm : wfFrom font lo m = true) :
    wfFrom font lo' m = true := by
  cases m with
  | nil => rfl
  | cons c m =>
    simp only [wfFrom, Bool.and_eq_true, decide_eq_true_eq] at hm ⊢
    exact ⟨⟨⟨h.trans hm.1.1.1, hm.1.1.2⟩, hm.1.2⟩, hm.2⟩

theorem wfFrom_put {lo a : Nat} (b : Byte) (ha : lo ≤ a) (h4 : a < 4096) (hb : b ≠ unlisted font a)
    (m : Memory) (hm : wfFrom font lo m = true) : wfFrom font lo (m.put a b) = true := by
  induction m generalizing lo with
  | nil => simp [put, wfFrom, ha, h4, hb]
  | cons c m ih =>
    obtain ⟨j, d⟩ := c
    have hm' := hm
    simp only [wfFrom, Bool.and_eq_true, decide_eq_true_eq] at hm
    obtain ⟨⟨⟨h1, h2⟩, h3⟩, h5⟩ := hm
    simp only [put]
    split
    · rename_i hlt
      simp [wfFrom, ha, h4, hb, h2, h3, h5, Nat.succ_le_of_lt hlt]
    · split
      · rename_i heq; subst heq
        simp [wfFrom, ha, h4, hb, h5]
      · have hja : j + 1 ≤ a := by omega
        simp [wfFrom, h1, h2, h3, ih hja h5]

theorem wfFrom_drop {lo : Nat} (a : Nat) (m : Memory) (hm : wfFrom font lo m = true) :
    wfFrom font lo (m.drop a) = true := by
  induction m generalizing lo with
  | nil => rfl
  | cons c m ih =>
    obtain ⟨j, d⟩ := c
    simp only [wfFrom, Bool.and_eq_true, decide_eq_true_eq] at hm
    obtain ⟨⟨⟨h1, h2⟩, h3⟩, h5⟩ := hm
    simp only [drop]
    split
    · exact wfFrom_mono font (by omega) _ (ih h5)
    · simp [wfFrom, h1, h2, h3, ih h5]

/-- One byte stored below 4096 keeps the canonical form. -/
theorem wf_write (m : Memory) (a : Nat) (b : Byte) (h4 : a < 4096) (hm : m.wf font = true) :
    (m.write font a b).wf font = true := by
  unfold write
  split
  · exact wfFrom_drop font a m hm
  · rename_i hb; exact wfFrom_put font b (Nat.zero_le a) h4 hb m hm

/-- Bytes stored below 4096 keep the canonical form. -/
theorem wf_writeList (bs : List Byte) (m : Memory) (a : Nat) (h4 : a + bs.length ≤ 4096)
    (hm : m.wf font = true) : (m.writeList font a bs).wf font = true := by
  induction bs generalizing m a with
  | nil => exact hm
  | cons b bs ih =>
    simp only [List.length_cons] at h4
    exact ih _ _ (by omega) (wf_write font m a b (by omega) hm)

/-! ### equal memories are equal data -/

/-- A canonical memory lists nothing below its lower bound. -/
theorem find_below {lo k : Nat} (m : Memory) (hm : wfFrom font lo m = true) (hk : k < lo) : m.find k = none := by
  induction m generalizing lo with
  | nil => rfl
  | cons c m ih =>
    obtain ⟨j, d⟩ := c
    simp only [wfFrom, Bool.and_eq_true, decide_eq_true_eq] at hm
    obtain ⟨⟨⟨h1, h2⟩, h3⟩, h5⟩ := hm
    have : j ≠ k := by omega
    simp [find, this, ih h5 (by omega)]

/-- Two canonical memories that read alike at every address are the same list. -/
theorem eq_of_read_eq {lo : Nat} (m m' : Memory) (hm : wfFrom font lo m = true) (hm' : wfFrom font lo m' = true)
    (h : ∀ k, m.read font k = m'.read font k) : m = m' := by
  induction m generalizing lo m' with
  | nil =>
    cases m' with
    | nil => rfl
    | cons c m' =>
      obtain ⟨j, d⟩ := c
      simp only [wfFrom, Bool.and_eq_true, decide_eq_true_eq] at hm'
      exact absurd (h j).symm (by simpa [read, find] using hm'.1.2)
  | cons c m ih =>
    obtain ⟨j, d⟩ := c
    have hc := hm
    simp only [wfFrom, Bool.and_eq_true, decide_eq_true_eq] at hm
    obtain ⟨⟨⟨h1, h2⟩, h3⟩, h5⟩ := hm
    cases m' with
    | nil => exact absurd (h j) (by simpa [read, find] using h3)
    | cons c' m' =>
      obtain ⟨j', d'⟩ := c'
      have hc' := hm'
      simp only [wfFrom, Bool.and_eq_true, decide_eq_true_eq] at hm'
      obtain ⟨⟨⟨h1', h2'⟩, h3'⟩, h5'⟩ := hm'
      have hjj : j = j' := by
        rcases Nat.lt_trichotomy j j' with hl | he | hl
        · have hn : Memory.find ((j', d') :: m') j = none := by
            have : j' ≠ j := by omega
            simp [find, this, find_below font m' h5' (by omega : j < j' + 1)]
          have hr := h j
          rw [read, read, hn] at hr
          exact absurd (by simpa [find] using hr) h3
        · exact he
        · have hn : Memory.find ((j, d) :: m) j' = none := by
            have : j ≠ j' := by omega
            simp [find, this, find_below font m h5 (by omega : j' < j + 1)]
          have hr := h j'
          rw [read, read, hn] at hr
          exact absurd (by simpa [find] using hr.symm) h3'
      subst hjj
      have hd : d = d' := by simpa [read, find] using h j
      subst hd
      congr 1
      refine ih m' h5 h5' fun k => ?_
      by_cases hk : j = k
      · subst hk
        simp [read, find_below font m h5 (Nat.lt_succ_self j), find_below font m' h5' (Nat.lt_succ_self j)]
      · simpa [read, find, hk] using h k

end Sys2Proof.Machine.Memory

namespace Sys2Proof.Machine.State

/-- What a store of bytes leaves readable at every address. -/
theorem readByte_writeBytes (s : State) (a : Nat) (bs : List Byte) (k : Nat) :
    (s.writeBytes a bs).readByte k = if a ≤ k ∧ k < a + bs.length then bs.getD (k - a) 0 else s.readByte k := by
  simp [readByte, Memory.read_writeList]

end Sys2Proof.Machine.State
end

