-- ==== Sys2Proof/Laws/Registers.lean ====
section
/-! SUPPORT. What a register write leaves readable, the flag-then-result order of R140, and the runs of registers of
FX55 and FX65. -/

namespace Sys2Proof.Machine.State

@[simp] theorem vF_eq : vF = 15 := rfl

/-- A register write changes that register and no other. -/
theorem reg_setReg (s : State) (x : RegIdx) (b : Byte) (k : RegIdx) :
    (s.setReg x b).reg k = if x = k then b else s.reg k := by
  simp only [reg, setReg, Vector.getElem_set, Fin.ext_iff]

@[simp] theorem reg_setReg_self (s : State) (x : RegIdx) (b : Byte) : (s.setReg x b).reg x = b := by
  simp [reg_setReg]

/-- Of the two writes the result's remains where they meet (R22). -/
theorem reg_setFlagThenReg (s : State) (f : Byte) (x : RegIdx) (b : Byte) (k : RegIdx) :
    (s.setFlagThenReg f x b).reg k = if x = k then b else if 15 = k then f else s.reg k := by
  simp [reg_setReg]

/-- FX65's write, register by register (R176). -/
theorem reg_loadRun (s : State) (x k : RegIdx) :
    (s.loadRun x).reg k = if k.val ≤ x.val then s.readByte (s.i.toNat + k.val) else s.reg k := by
  simp [loadRun, reg]

/-- FX55 stores `x + 1` bytes. -/
@[simp] theorem length_regRun (s : State) (x : RegIdx) : (s.regRun x).length = x.val + 1 := by
  simp [regRun]

/-- Byte `k` of FX55's run is `V[k]` (R175). -/
theorem getD_regRun (s : State) (x k : RegIdx) (h : k.val ≤ x.val) : (s.regRun x).getD k.val 0 = s.reg k := by
  have h1 : k.val < x.val + 1 := by omega
  simp [regRun, reg, List.getD_eq_getElem?_getD, h1]

@[simp] theorem length_decimalDigits (b : Byte) : (decimalDigits b).length = 3 := rfl

end Sys2Proof.Machine.State
end

