-- ==== Sys2Proof/Laws/Ops.lean ====
section
/-! SUPPORT. What each shared operation can answer: the bounds check of R61, the fetch of R101, the key search of R204,
and the step (40_fetch_decode.md R100), each said once. -/

namespace Sys2Proof.Machine

/-! ### the bounds check (R61) -/

theorem State.dataFault_eq_none (s : State) (n : Nat) :
    s.dataFault n = none ↔ n = 0 ∨ s.i.toNat + n ≤ 4096 := by
  unfold State.dataFault
  split <;> simp <;> omega

theorem State.dataFault_eq_some (s : State) (n a : Nat) :
    s.dataFault n = some a ↔ (1 ≤ n ∧ 4096 < s.i.toNat + n) ∧ a = max s.i.toNat 4096 := by
  unfold State.dataFault
  split
  · rename_i h; simp only [Option.some.injEq, eq_comm (a := a)]; constructor
    · intro e; exact ⟨by omega, e⟩
    · exact And.right
  · rename_i h; simp; omega

/-! ### fetch (R101) -/

theorem State.fetch_eq_none (s : State) : s.fetch = none ↔ 4095 ≤ s.pc.toNat := by
  unfold State.fetch; split <;> simp <;> omega

theorem State.fetch_eq_some (s : State) (w : Word) : s.fetch = some w ↔ s.pc.toNat ≤ 4094 ∧ w = s.wordAtPc := by
  unfold State.fetch
  split
  · rename_i h; simp; omega
  · rename_i h; simp only [Option.some.injEq, eq_comm (a := w)]; constructor
    · intro e; exact ⟨by omega, e⟩
    · exact And.right

/-- The word joined from two bytes is their big-endian value (R57). -/
theorem toNat_joinBytes (hi lo : Byte) : (joinBytes hi lo).toNat = hi.toNat * 256 + lo.toNat := by
  have := hi.isLt; have := lo.isLt
  simp only [joinBytes, BitVec.toNat_ofNat]; omega

/-- The bytes of a word join to it again. -/
theorem joinBytes_wordBytes (iw : Word) : joinBytes (iw.extractLsb' 8 8) (iw.extractLsb' 0 8) = iw := by
  apply BitVec.eq_of_toNat_eq
  have := iw.isLt
  rw [toNat_joinBytes]
  simp only [BitVec.extractLsb'_toNat]
  omega

/-! ### the key search (R204) -/

theorem State.lowestKey_eq_some (s : State) (k : Nat) :
    s.lowestKey = some k ↔ k < 16 ∧ s.keyHeld k = true ∧ ∀ j, j < k → s.keyHeld j = false := by
  unfold State.lowestKey
  rw [List.find?_range_eq_some]
  constructor
  · rintro ⟨h1, h2, h3⟩; exact ⟨by simpa using h2, h1, fun j hj => by simpa using h3 j hj⟩
  · rintro ⟨h1, h2, h3⟩; exact ⟨h2, by simpa using h1, fun j hj => by simpa using h3 j hj⟩

theorem State.lowestKey_eq_none (s : State) : s.lowestKey = none ↔ s.keys = 0 := by
  unfold State.lowestKey State.keyHeld
  rw [List.find?_range_eq_none]
  constructor
  · intro h
    apply BitVec.eq_of_getLsbD_eq
    intro j hj
    simpa using h j hj
  · rintro h j -; simp [h]

/-! ### what a step can do (R100) -/

/-- A running machine's `runStep` that answers a next state raised `FetchOutOfBounds`, or `UnknownInstruction`, or ran
the decoded instruction. -/
theorem runStep_cases {s t : State} (h : runStep s = .next t) :
    (4095 ≤ s.pc.toNat ∧ t = s.raise .fetchOutOfBounds none s.pc none) ∨
    (s.pc.toNat ≤ 4094 ∧ decodeWord s.wordAtPc = none ∧
      t = s.advance.raise .unknownInstruction (some s.wordAtPc) s.pc none) ∨
    (∃ i, s.pc.toNat ≤ 4094 ∧ decodeWord s.wordAtPc = some i ∧ exec i s.advance = .next t) := by
  unfold runStep at h
  split at h
  · rename_i hf
    exact Or.inl ⟨(s.fetch_eq_none).1 hf, by simpa using h.symm⟩
  · rename_i iw hf
    obtain ⟨hp, rfl⟩ := (s.fetch_eq_some iw).1 hf
    split at h
    · rename_i hd
      exact Or.inr (Or.inl ⟨hp, hd, by simpa using h.symm⟩)
    · rename_i i hd
      exact Or.inr (Or.inr ⟨i, hp, hd, h⟩)

/-- The step of a running machine runs what the fetched word decodes to. -/
theorem runStep_decoded {s : State} {i : Instr} (hp : s.pc.toNat ≤ 4094) (hd : decodeWord s.wordAtPc = some i) :
    runStep s = exec i s.advance := by
  have hf : s.fetch = some s.wordAtPc := (s.fetch_eq_some _).2 ⟨hp, rfl⟩
  simp [runStep, hf, hd]

/-- A turn is the step event after its ticks; a halted machine takes no turn (R108). -/
theorem step_cases {s t : State} (h : step s = .next t) :
    (s.halted = true ∧ ∃ r, s.fault = some r ∧ t = { s with result := some (.fault r) }) ∨
    (s.halted = false ∧ runStep s.beginTurn = .next t) := by
  unfold step at h
  cases hh : s.halted
  · exact Or.inr ⟨rfl, by simpa [hh] using h⟩
  · rw [hh, if_pos rfl, State.haltedStep] at h
    split at h
    · rename_i r hr; exact Or.inl ⟨rfl, r, hr, by simpa [hh] using h.symm⟩
    · simp at h

/-! ### the fields a turn's beginning leaves alone -/

section
variable (s : State)
@[simp] theorem State.dropTurn_halted : s.dropTurn.halted = s.halted := by unfold State.dropTurn; split <;> rfl
@[simp] theorem State.beginTurn_params : s.beginTurn.params = s.params := by unfold State.beginTurn State.dropTurn; split <;> rfl
@[simp] theorem State.beginTurn_v : s.beginTurn.v = s.v := by unfold State.beginTurn State.dropTurn; split <;> rfl
@[simp] theorem State.beginTurn_i : s.beginTurn.i = s.i := by unfold State.beginTurn State.dropTurn; split <;> rfl
@[simp] theorem State.beginTurn_pc : s.beginTurn.pc = s.pc := by unfold State.beginTurn State.dropTurn; split <;> rfl
@[simp] theorem State.beginTurn_stack : s.beginTurn.stack = s.stack := by unfold State.beginTurn State.dropTurn; split <;> rfl
@[simp] theorem State.beginTurn_sp : s.beginTurn.sp = s.sp := by unfold State.beginTurn State.dropTurn; split <;> rfl
@[simp] theorem State.beginTurn_fb : s.beginTurn.fb = s.fb := by unfold State.beginTurn State.dropTurn; split <;> rfl
@[simp] theorem State.beginTurn_mem : s.beginTurn.mem = s.mem := by unfold State.beginTurn State.dropTurn; split <;> rfl
@[simp] theorem State.beginTurn_halted : s.beginTurn.halted = s.halted := by unfold State.beginTurn State.dropTurn; split <;> rfl
@[simp] theorem State.beginTurn_fault : s.beginTurn.fault = s.fault := by unfold State.beginTurn State.dropTurn; split <;> rfl
@[simp] theorem State.beginTurn_result : s.beginTurn.result = s.result := by unfold State.beginTurn State.dropTurn; split <;> rfl
@[simp] theorem State.beginTurn_keys : s.beginTurn.keys = s.nextTurn.keys := rfl
@[simp] theorem State.beginTurn_rand8 : s.beginTurn.rand8 = s.nextTurn.rand8 := rfl
end

end Sys2Proof.Machine
end

