-- ==== Sys2Proof/Laws/Exec.lean ====
section
/-! SUPPORT. What an instruction can do, said once: every next state of `exec` is one of eleven updates of the state, or
a fault taken. Proofs about all instructions go by cases on it and never unfold a meaning. -/

namespace Sys2Proof.Machine

/-- The updates an instruction's next state can be. -/
inductive ExecEffect (i : Instr) (s : State) : State → Prop
  /-- One of the four faults of execute, with the state otherwise unchanged; `addr` is present for the two that have it. -/
  | fault (c : FaultCause) (a : Option Nat) (hc : c ≠ .fetchOutOfBounds ∧ c ≠ .unknownInstruction)
      (ha : a.isSome = true ↔ c = .dataAccessOutOfBounds ∨ c = .keyIndexOutOfRange) : ExecEffect i s (s.raiseFrom i c a)
  /-- Registers alone. -/
  | regs (v : Vector Byte 16) : ExecEffect i s { s with v := v }
  /-- Registers and `I` (FX1E). -/
  | regsIndex (v : Vector Byte 16) (w : Word) (x : RegIdx) (hi : i = .addI x) : ExecEffect i s { s with v := v, i := w }
  /-- `I` alone. -/
  | index (w : Word) (hi : (∃ nnn, i = .ldI nnn) ∨ ∃ x, i = .ldF x) : ExecEffect i s (s.setIndex w)
  /-- `pc` alone: not skipped, skipped, rewound, or a jump. -/
  | branch (w : Word) (hw : w = s.pc ∨ w = s.pc + 2 ∨ w = s.pc - 2 ∨ w.toNat ≤ 0x10FE) : ExecEffect i s (s.setPc w)
  /-- 2NNN. -/
  | call (nnn : BitVec 12) (hi : i = .call nnn) (hcap : s.sp ≠ s.params.stackCapacity) (hlen : s.sp < s.stack.length) :
      ExecEffect i s ((s.push s.pc).setPc (zextNnn nnn))
  /-- 00EE. -/
  | ret (w : Word) (hi : i = .ret) (hsp : s.sp ≠ 0) (hw : s.stack[s.sp - 1]? = some w) : ExecEffect i s (s.popTo w)
  /-- FX15. -/
  | delay (b : Byte) (x : RegIdx) (hi : i = .ldDtV x) : ExecEffect i s (s.setDelay b)
  /-- FX18. -/
  | sound (b : Byte) (x : RegIdx) (hi : i = .ldStV x) : ExecEffect i s (s.setSound b)
  /-- 00E0. -/
  | clear (hi : i = .cls) : ExecEffect i s ({ s with fb := Framebuffer.blank }.setDirty true)
  /-- DXYN. -/
  | draw (v : Vector Byte 16) (f : Framebuffer) (x y : RegIdx) (n : BitVec 4) (hi : i = .drw x y n) :
      ExecEffect i s ({ s with v := v, fb := f }.setDirty true)
  /-- FX33 and FX55, the bytes within memory. -/
  | store (a : Nat) (bs : List Byte) (ha : a + bs.length ≤ 4096) (hi : (∃ x, i = .ldB x) ∨ ∃ x, i = .ldMemV x) :
      ExecEffect i s (s.writeBytes a bs)

/-- A skip is a branch to `pc` or to `pc + 2`. -/
theorem ExecEffect.skipIf (i : Instr) (s : State) (c : Bool) : ExecEffect i s (s.skipIf c) := by
  cases c
  · exact .branch s.pc (.inl rfl)
  · exact .branch (s.pc + 2) (.inr (.inl rfl))

theorem exec_effect {i : Instr} {s t : State} (h : exec i s = .next t) : ExecEffect i s t := by
  cases i
  case cls => cases h; exact .clear rfl
  case ret =>
    simp only [exec, execRet] at h
    split at h
    · cases h; exact .fault _ _ (by simp) (by simp)
    · split at h <;> cases h
      exact .ret _ rfl ‹_› ‹_›
  case jp nnn =>
    cases h
    exact .branch _ (.inr (.inr (.inr (by simp [zextNnn]; omega))))
  case jpV x nnn =>
    cases h
    have := (s.reg x).isLt
    exact .branch _ (.inr (.inr (.inr (by simp [jumpOffset]; omega))))
  case call nnn =>
    simp only [exec, execCall] at h
    split at h
    · cases h; exact .fault _ _ (by simp) (by simp)
    · split at h <;> cases h
      exact .call _ rfl ‹_› ‹_›
  case drw x y n =>
    simp only [exec, execDrw] at h
    split at h <;> cases h
    · exact .fault _ _ (by simp) (by simp)
    · exact .draw _ _ _ _ _ rfl
  case ldB x =>
    simp only [exec, execLdB] at h
    split at h <;> cases h
    · exact .fault _ _ (by simp) (by simp)
    · have := (s.dataFault_eq_none _).1 ‹_›
      exact .store _ _ (by simp; omega) (.inl ⟨_, rfl⟩)
  case ldMemV x =>
    simp only [exec, execLdMemV] at h
    split at h <;> cases h
    · exact .fault _ _ (by simp) (by simp)
    · have := (s.dataFault_eq_none _).1 ‹_›
      exact .store _ _ (by simp; omega) (.inr ⟨_, rfl⟩)
  case ldVMem x =>
    simp only [exec, execLdVMem] at h
    split at h <;> cases h
    · exact .fault _ _ (by simp) (by simp)
    · exact .regs _
  case skp x =>
    simp only [exec, execSkp] at h
    split at h <;> cases h
    · exact .fault _ _ (by simp) (by simp)
    · exact .skipIf _ _ _
  case sknp x =>
    simp only [exec, execSknp] at h
    split at h <;> cases h
    · exact .fault _ _ (by simp) (by simp)
    · exact .skipIf _ _ _
  case ldVK x =>
    simp only [exec, execLdVK] at h
    cases h
    split
    · exact .branch _ (.inr (.inr (.inl rfl)))
    · exact .regs _
  case seImm => cases h; exact .skipIf _ _ _
  case sneImm => cases h; exact .skipIf _ _ _
  case seReg => cases h; exact .skipIf _ _ _
  case sneReg => cases h; exact .skipIf _ _ _
  case ldI => cases h; exact .index _ (.inl ⟨_, rfl⟩)
  case ldF => cases h; exact .index _ (.inr ⟨_, rfl⟩)
  case addI => cases h; exact .regsIndex _ _ _ rfl
  case ldDtV => cases h; exact .delay _ _ rfl
  case ldStV => cases h; exact .sound _ _ rfl
  all_goals cases h; exact .regs _

/-- Every instruction answers a next state where the stack has the entries `SP` needs (R26, R27). -/
theorem exec_next (i : Instr) (s : State) (hcap : s.stack.length = s.params.stackCapacity)
    (hsp : s.sp ≤ s.params.stackCapacity) : ∃ t, exec i s = .next t := by
  cases i
  case ret =>
    simp only [exec, execRet]
    split
    · exact ⟨_, rfl⟩
    · rw [List.getElem?_eq_getElem (by omega)]; exact ⟨_, rfl⟩
  case call nnn =>
    simp only [exec, execCall]
    split
    · exact ⟨_, rfl⟩
    · rw [if_pos (by omega)]; exact ⟨_, rfl⟩
  case drw => simp only [exec, execDrw]; split <;> exact ⟨_, rfl⟩
  case ldB => simp only [exec, execLdB]; split <;> exact ⟨_, rfl⟩
  case ldMemV => simp only [exec, execLdMemV]; split <;> exact ⟨_, rfl⟩
  case ldVMem => simp only [exec, execLdVMem]; split <;> exact ⟨_, rfl⟩
  case skp => simp only [exec, execSkp]; split <;> exact ⟨_, rfl⟩
  case sknp => simp only [exec, execSknp]; split <;> exact ⟨_, rfl⟩
  all_goals exact ⟨_, rfl⟩

end Sys2Proof.Machine
end

