-- ==== Sys2Proof/Laws/PerInstr.lean ====
section
/-! SUPPORT. Statements made of every instruction as syntax, one lemma per constructor. -/

namespace Sys2Proof.Laws

/-- A word whose low 12 bits hold `n` under the opcode digit `d` is `d000` under the mask 0xF000. -/
theorem and_F000 (d : BitVec 4) (n : Nat) (hn : n < 4096) :
    BitVec.ofNat 16 (d.toNat * 4096 + n) &&& 0xF000 = BitVec.ofNat 16 (d.toNat * 4096) := by
  apply BitVec.eq_of_getLsbD_eq
  intro j hj
  have hmask : (0xF000 : BitVec 16).getLsbD j = decide (12 ≤ j) := by
    revert j; decide
  have h1 := Nat.testBit_two_pow_mul_add d.toNat (i := 12) (b := n) (by omega) j
  have h2 := Nat.testBit_two_pow_mul_add d.toNat (i := 12) (b := 0) (by omega) j
  rw [BitVec.getLsbD_and, hmask]
  simp only [BitVec.getLsbD_ofNat, hj, decide_true, Bool.true_and]
  rw [show d.toNat * 4096 + n = 2 ^ 12 * d.toNat + n by omega, show d.toNat * 4096 = 2 ^ 12 * d.toNat + 0 by omega, h1, h2]
  by_cases h : j < 12
  · simp [h, Nat.not_le.2 h]
  · simp [h, Nat.not_lt.1 h]

namespace RowMatch

/-- The word of an instruction is the instruction's own row's: `(encode i & mask) == match` (30_encoding.md R85). -/
def Statement (i : Instr) : Prop := i.row.Matches (encode i)

section
variable (x y : RegIdx) (n : BitVec 4) (nn : BitVec 8) (nnn : BitVec 12)

theorem cls : Statement .cls := by unfold Statement; decide
theorem ret : Statement .ret := by unfold Statement; decide
theorem jp : Statement (.jp nnn) := and_F000 0x1 nnn.toNat nnn.isLt
theorem call : Statement (.call nnn) := and_F000 0x2 nnn.toNat nnn.isLt
theorem seImm : Statement (.seImm x nn) := and_F000 0x3 (x.val * 256 + nn.toNat) (by omega)
theorem sneImm : Statement (.sneImm x nn) := and_F000 0x4 (x.val * 256 + nn.toNat) (by omega)
theorem seReg : Statement (.seReg x y) := by unfold Statement; revert x y; decide
theorem ldImm : Statement (.ldImm x nn) := and_F000 0x6 (x.val * 256 + nn.toNat) (by omega)
theorem addImm : Statement (.addImm x nn) := and_F000 0x7 (x.val * 256 + nn.toNat) (by omega)
theorem ldReg : Statement (.ldReg x y) := by unfold Statement; revert x y; decide
theorem orReg : Statement (.orReg x y) := by unfold Statement; revert x y; decide
theorem andReg : Statement (.andReg x y) := by unfold Statement; revert x y; decide
theorem xorReg : Statement (.xorReg x y) := by unfold Statement; revert x y; decide
theorem addReg : Statement (.addReg x y) := by unfold Statement; revert x y; decide
theorem sub : Statement (.sub x y) := by unfold Statement; revert x y; decide
theorem shr : Statement (.shr x y) := by unfold Statement; revert x y; decide
theorem subn : Statement (.subn x y) := by unfold Statement; revert x y; decide
theorem shl : Statement (.shl x y) := by unfold Statement; revert x y; decide
theorem sneReg : Statement (.sneReg x y) := by unfold Statement; revert x y; decide
theorem ldI : Statement (.ldI nnn) := and_F000 0xA nnn.toNat nnn.isLt
theorem jpV : Statement (.jpV x nnn) := and_F000 0xB nnn.toNat nnn.isLt
theorem rnd : Statement (.rnd x nn) := and_F000 0xC (x.val * 256 + nn.toNat) (by omega)
theorem drw : Statement (.drw x y n) := and_F000 0xD (x.val * 256 + y.val * 16 + n.toNat) (by omega)
theorem skp : Statement (.skp x) := by unfold Statement; revert x; decide
theorem sknp : Statement (.sknp x) := by unfold Statement; revert x; decide
theorem ldVDt : Statement (.ldVDt x) := by unfold Statement; revert x; decide
theorem ldVK : Statement (.ldVK x) := by unfold Statement; revert x; decide
theorem ldDtV : Statement (.ldDtV x) := by unfold Statement; revert x; decide
theorem ldStV : Statement (.ldStV x) := by unfold Statement; revert x; decide
theorem addI : Statement (.addI x) := by unfold Statement; revert x; decide
theorem ldF : Statement (.ldF x) := by unfold Statement; revert x; decide
theorem ldB : Statement (.ldB x) := by unfold Statement; revert x; decide
theorem ldMemV : Statement (.ldMemV x) := by unfold Statement; revert x; decide
theorem ldVMem : Statement (.ldVMem x) := by unfold Statement; revert x; decide

end

end RowMatch

end Sys2Proof.Laws
end

