-- ==== Sys2Proof/Tests/Slice0.lean ====
section
/-! SUPPORT. The model's own tests. Expected results come from the spec: words written out from the bit layouts of
30_encoding.md R85, and rows of 95_test_vectors.md. The last part gives, for every statement with hypotheses, values
that meet them. -/

namespace Sys2Proof.Tests

open Sys2Proof Sys2Proof.Machine Sys2Proof.Safety Sys2Proof.Statements

/-! ### Helpers -/

/-- The reset state with some registers set. -/
def withRegs (l : List (RegIdx × Byte)) : State := l.foldl (fun s p => s.setReg p.1 p.2) State.reset

/-- The next state of an outcome, if it is one. -/
def nextOf : Host.Outcome State Fault Refusal → Option State
  | .next t => some t
  | .fault _ => none
  | .refused _ => none

/-- One step on the table word `w` placed at `pc`, in a turn without ticks: a view of the state after it. -/
def after {α : Type} (w : Nat) (s : State) (view : State → α) (keys : BitVec 16 := 0) (rand8 : Byte := 0) : Option α :=
  (nextOf (step (State.withFetchWord { s with schedule := [⟨0, keys, rand8⟩] } 16 w))).map view

/-- The fault record a step on `w` leaves, with the `pc`. -/
def faultAfter (w : Nat) (s : State) (keys : BitVec 16 := 0) : Option (Option FaultRecord × Word) :=
  after w s (fun t => (t.fault, t.pc)) keys

/-- The lit pixels of row `y` as `x` coordinates. -/
def litRow (s : State) (y : Nat) : List Nat := (List.range 64).filter fun x => s.pixel y x

/-- A framebuffer with the listed `(x, y)` lit. -/
def lit (l : List (Nat × Nat)) : Framebuffer := l.foldl (fun f p => Framebuffer.set f p.2 p.1 true) Framebuffer.blank

/-! ### Well-formedness (R91): the one check, and what it refuses -/

theorem test_wf_refuses_jpV_with_another_digit : Instr.wf (.jpV 3 0x210) = false := by decide
theorem test_wf_accepts_jpV_with_its_digit : Instr.wf (.jpV 2 0x210) = true := by decide

/-! ### Decoding: every constructor by a word written out from R85's row, group by group -/

theorem test_decode_group0 : decodeWord 0b0000_0000_1110_0000 = some .cls ∧ decodeWord 0b0000_0000_1110_1110 = some .ret := by decide
theorem test_decode_jumps : decodeWord 0b0001_1010_1011_1100 = some (.jp 0xABC) ∧
    decodeWord 0b0010_0010_0001_0000 = some (.call 0x210) ∧ decodeWord 0b1011_0010_0001_0000 = some (.jpV 2 0x210) := by decide
theorem test_decode_skips : decodeWord 0b0011_0001_0001_0000 = some (.seImm 1 0x10) ∧
    decodeWord 0b0100_0010_0000_0001 = some (.sneImm 2 0x01) ∧ decodeWord 0b0101_0011_0100_0000 = some (.seReg 3 4) ∧
    decodeWord 0b1001_0011_0100_0000 = some (.sneReg 3 4) := by decide
theorem test_decode_immediates : decodeWord 0b0110_1010_0011_1100 = some (.ldImm 10 0x3C) ∧
    decodeWord 0b0111_0000_0010_0010 = some (.addImm 0 0x22) ∧ decodeWord 0b1010_0011_0000_0000 = some (.ldI 0x300) ∧
    decodeWord 0b1100_0011_1111_0000 = some (.rnd 3 0xF0) := by decide
theorem test_decode_group8_low : decodeWord 0b1000_0001_0010_0000 = some (.ldReg 1 2) ∧
    decodeWord 0b1000_0001_0010_0001 = some (.orReg 1 2) ∧ decodeWord 0b1000_0001_0010_0010 = some (.andReg 1 2) ∧
    decodeWord 0b1000_0001_0010_0011 = some (.xorReg 1 2) ∧ decodeWord 0b1000_1010_1011_0100 = some (.addReg 10 11) := by decide
theorem test_decode_group8_high : decodeWord 0b1000_0000_0001_0101 = some (.sub 0 1) ∧
    decodeWord 0b1000_0001_1010_0110 = some (.shr 1 10) ∧ decodeWord 0b1000_0001_0010_0111 = some (.subn 1 2) ∧
    decodeWord 0b1000_0001_0010_1110 = some (.shl 1 2) := by decide
theorem test_decode_draw : decodeWord 0b1101_0001_0010_0101 = some (.drw 1 2 5) := by decide
theorem test_decode_groupE : decodeWord 0b1110_0010_1001_1110 = some (.skp 2) ∧
    decodeWord 0b1110_0010_1010_0001 = some (.sknp 2) := by decide
theorem test_decode_groupF_timers : decodeWord 0b1111_0100_0000_0111 = some (.ldVDt 4) ∧
    decodeWord 0b1111_0011_0000_1010 = some (.ldVK 3) ∧ decodeWord 0b1111_0100_0001_0101 = some (.ldDtV 4) ∧
    decodeWord 0b1111_0100_0001_1000 = some (.ldStV 4) := by decide
theorem test_decode_groupF_memory : decodeWord 0b1111_0000_0001_1110 = some (.addI 0) ∧
    decodeWord 0b1111_0011_0010_1001 = some (.ldF 3) ∧ decodeWord 0b1111_0000_0011_0011 = some (.ldB 0) ∧
    decodeWord 0b1111_0010_0101_0101 = some (.ldMemV 2) ∧ decodeWord 0b1111_1111_0110_0101 = some (.ldVMem 15) := by decide

/-- 95_test_vectors.md 3.1: words of no row. -/
theorem test_decode_refuses_unknown_words :
    [0x0000, 0x00E1, 0x00EF, 0x0123, 0x00FF, 0x5121, 0x9AB1, 0x8008, 0x812F, 0x8129, 0xE09F, 0xE000, 0xE1A2, 0xF000,
      0xF01F, 0xF075, 0xF085, 0xF030, 0xFFFF].map decodeWord = List.replicate 19 none := by decide

theorem test_decode_rejects_by_name : decode [0x53, 0x41] = .error (.unknownInstruction 0x5341) ∧
    decode [0x53] = .error .truncated ∧ decode [] = .error .truncated := ⟨rfl, rfl, rfl⟩

/-- 95_test_vectors.md 2.1: "`Mem[0x200] = 0x12`, `Mem[0x201] = 0x34` fetches `iw = 0x1234`, a jump to 0x234". -/
theorem test_decode_is_big_endian : decode [0x12, 0x34, 0x56] = .ok (.jp 0x234, [0x56]) := rfl

theorem test_encode : encode (.drw 1 2 5) = 0xD125 ∧ encode (.jpV 2 0x210) = 0xB210 ∧ encode (.shr 1 10) = 0x81A6 ∧
    encode .cls = 0x00E0 := by decide

/-- The six fields of 0x81A6, from 95_test_vectors.md 2.1. -/
theorem test_fields : fieldsOf 0x81A6 = ⟨0x8, 1, 0xA, 0x6, 0xA6, 0x1A6⟩ := by decide

theorem test_decodeTableWord : decodeTableWord 16 0x8AB4 = some (.addReg 10 11) ∧ decodeTableWord 16 0x5341 = none := by decide

/-! ### One step each, from 95_test_vectors.md -/

theorem test_reset_memory_is_canonical : Memory.wf State.reset.params.fontTable State.reset.mem = true := by decide

/-- The default font at both ends (4.2). -/
theorem test_reset_font : [0x04F, 0x050, 0x054, 0x055, 0x09B, 0x09F, 0x0A0, 0x200].map State.reset.readByte =
    [0x00, 0xF0, 0xF0, 0x20, 0xF0, 0x80, 0x00, 0x00] := by decide

/-- With the host's own way to place a word, and no turn known, a step still runs it. -/
theorem test_withFetchWord_runs : (nextOf (step (State.reset.withFetchWord 16 0xF00A))).isSome = true ∧
    ((nextOf (step (State.reset.withFetchWord 16 0x6A3C))).map fun t => (t.reg 10, t.pc)) = some (0x3C, 0x202) := by decide

/-- An empty image: "`Fault(UnknownInstruction, iw=0x0000, fault_pc=0x0200)`" (4.2). -/
theorem test_step_from_reset_faults : (nextOf (step State.reset)).map (fun t => (t.fault, t.pc, t.halted)) =
    some (some ⟨.unknownInstruction, some 0x0000, 0x0200, none⟩, 0x0202, true) := by decide

theorem test_cls : after 0x00E0 { State.reset with fb := lit [(0, 0), (63, 31)] } (fun t => (t.pixel 0 0, t.pixel 31 63, t.result)) =
    some (false, false, some (.ok true)) := by decide
theorem test_ret : after 0x00EE { State.reset with sp := 1, stack := 0x0206 :: List.replicate 15 0, pc := 0x212 } (fun t => (t.sp, t.pc)) =
    some (0, 0x0206) := by decide
theorem test_ret_underflow : faultAfter 0x00EE State.reset = some (some ⟨.stackUnderflow, some 0x00EE, 0x0200, none⟩, 0x0202) := by decide
theorem test_jp_odd : after 0x1ABD State.reset State.pc = some 0x0ABD := by decide
theorem test_call_last_slot : after 0x2400 { State.reset with sp := 15, pc := 0x300 } (fun t => (t.sp, t.stack[15]?, t.pc)) =
    some (16, some 0x0302, 0x0400) := by decide
theorem test_call_overflow : faultAfter 0x2400 { State.reset with sp := 16, pc := 0x300 } =
    some (some ⟨.stackOverflow, some 0x2400, 0x0300, none⟩, 0x0302) := by decide
theorem test_seImm : after 0x3110 (withRegs [(1, 0x10)]) State.pc = some 0x0204 ∧ after 0x3110 (withRegs [(1, 0x11)]) State.pc = some 0x0202 := by decide
theorem test_sneImm : after 0x4201 { State.reset with pc := 0x300 } State.pc = some 0x0304 ∧
    after 0x4200 { State.reset with pc := 0x300 } State.pc = some 0x0302 := by decide
theorem test_seReg : after 0x5340 (withRegs [(3, 7), (4, 7)]) State.pc = some 0x0204 ∧ after 0x5340 (withRegs [(3, 7), (4, 8)]) State.pc = some 0x0202 := by decide
theorem test_sneReg : after 0x9340 (withRegs [(3, 7), (4, 8)]) State.pc = some 0x0204 ∧ after 0x9AA0 (withRegs [(10, 0x33)]) State.pc = some 0x0202 := by decide
theorem test_jpV_adds_vx : after 0xB210 (withRegs [(2, 0x04), (0, 0x99)]) State.pc = some 0x0214 := by decide
theorem test_jpV_not_reduced : after 0xBFFF (withRegs [(15, 0xFF)]) State.pc = some 0x10FE := by decide
theorem test_ldImm : after 0x6F07 State.reset (State.reg · 15) = some 0x07 := by decide
theorem test_addImm_wraps_without_flag : after 0x7001 (withRegs [(0, 0xFF), (15, 0x77)]) (fun t => (t.reg 0, t.reg 15)) = some (0x00, 0x77) := by decide
theorem test_ldReg : after 0x8120 (withRegs [(2, 0x7E)]) (fun t => (t.reg 1, t.reg 2)) = some (0x7E, 0x7E) := by decide
theorem test_or : after 0x8121 (withRegs [(1, 0xF0), (2, 0x0F), (15, 0x55)]) (fun t => (t.reg 1, t.reg 15)) = some (0xFF, 0x55) := by decide
theorem test_and : after 0x8122 (withRegs [(1, 0xAA), (2, 0xCC)]) (State.reg · 1) = some 0x88 := by decide
theorem test_xor : after 0x8123 (withRegs [(1, 0xAA), (2, 0xCC)]) (State.reg · 1) = some 0x66 := by decide
theorem test_add_carry : after 0x8124 (withRegs [(1, 0xC8), (2, 0x64)]) (fun t => (t.reg 1, t.reg 15)) = some (0x2C, 0x01) := by decide
theorem test_add_result_stays_in_vf : after 0x8FF4 (withRegs [(15, 0x81)]) (State.reg · 15) = some 0x02 := by decide
theorem test_sub_strict : after 0x8015 (withRegs [(0, 7), (1, 7), (15, 1)]) (fun t => (t.reg 0, t.reg 15)) = some (0x00, 0x00) := by decide
theorem test_sub_borrow : after 0x8015 (withRegs [(0, 3), (1, 5), (15, 1)]) (fun t => (t.reg 0, t.reg 15)) = some (0xFE, 0x00) := by decide
theorem test_subn : after 0x8127 (withRegs [(1, 0x0A), (2, 0x0C)]) (fun t => (t.reg 1, t.reg 15)) = some (0x02, 0x01) := by decide
theorem test_shr_ignores_y : after 0x81A6 (withRegs [(1, 5), (10, 0xF0)]) (fun t => (t.reg 1, t.reg 10, t.reg 15)) = some (0x02, 0xF0, 0x01) := by decide
theorem test_shr_vf : after 0x8F06 (withRegs [(15, 2)]) (State.reg · 15) = some 0x01 := by decide
theorem test_shl : after 0x812E (withRegs [(1, 0x81), (2, 0x01)]) (fun t => (t.reg 1, t.reg 2, t.reg 15)) = some (0x02, 0x01, 0x01) := by decide
theorem test_ldI : after 0xAFFF { State.reset with i := 0x1234 } State.i = some 0x0FFF := by decide
theorem test_addI_flag : after 0xFF1E { withRegs [(15, 7)] with i := 0x0100 } (fun t => (t.i, t.reg 15)) = some (0x0107, 0x01) := by decide
theorem test_addI_open_parameter :
    after 0xF01E { withRegs [(15, 1)] with i := 0x00FF } (State.reg · 15) = some 0 ∧
    after 0xF01E { withRegs [(15, 1)] with i := 0x00FF, params := { Config.Params.default with fx1eElseClearsVF := false } }
      (State.reg · 15) = some 1 := by decide
theorem test_ldF : after 0xF329 (withRegs [(3, 0x0F)]) State.i = some 0x009B ∧ after 0xF329 (withRegs [(3, 0xFF)]) State.i = some 0x054B := by decide
theorem test_ldB_last_legal : after 0xF033 { withRegs [(0, 0x7B)] with i := 0x0FFD } (fun t => t.readBytes 0xFFD 3) = some [1, 2, 3] := by decide
theorem test_ldB_faults : faultAfter 0xF033 { withRegs [(0, 1)] with i := 0x1388 } =
    some (some ⟨.dataAccessOutOfBounds, some 0xF033, 0x0200, some 5000⟩, 0x0202) := by decide
theorem test_ldMemV : after 0xF255 { withRegs [(0, 0x11), (1, 0x22), (2, 0x33), (3, 0x44)] with i := 0x0400 }
    (fun t => (t.readBytes 0x400 4, t.i)) = some ([0x11, 0x22, 0x33, 0x00], 0x0400) := by decide
theorem test_ldMemV_no_partial_store : after 0xF155 { withRegs [(0, 0xAB), (1, 0xCD)] with i := 0x0FFF } (fun t => (t.readByte 0xFFF, t.fault)) =
    some (0, some ⟨.dataAccessOutOfBounds, some 0xF155, 0x0200, some 4096⟩) := by decide
theorem test_ldVMem_reads_font : after 0xFF65 { State.reset with i := 0x0050 } (fun t => t.v.toList) =
    some [0xF0, 0x90, 0x90, 0x90, 0xF0, 0x20, 0x60, 0x20, 0x20, 0x70, 0xF0, 0x10, 0xF0, 0x80, 0xF0, 0xF0] := by decide
theorem test_ldVMem_faults : after 0xF165 { withRegs [(0, 9)] with i := 0x0FFF } (fun t => (t.reg 0, t.halted)) = some (9, true) := by decide

/-- 2.6: clipped at column 63. -/
theorem test_drw_clips : after 0xD011 { (withRegs [(0, 0x3C)]).writeBytes 0x20C [0xFF] with i := 0x20C }
    (fun t => (litRow t 0, t.reg 15, t.result)) = some ([60, 61, 62, 63], 0, some (.ok true)) := by decide
/-- 2.6: "one pixel collides and goes off; (5,2) untouched". -/
theorem test_drw_collides : after 0xD012
    { (withRegs [(0, 1), (1, 1)]).writeBytes 0x300 [0xC0, 0xC0] with i := 0x300, fb := lit [(2, 1), (5, 2)] }
    (fun t => (litRow t 1, litRow t 2, t.reg 15)) = some ([1], [1, 2, 5], 1) := by decide
theorem test_rnd : after 0xC3F0 State.reset (State.reg · 3) 0 0xB7 = some 0xB0 := by decide
theorem test_skp : after 0xE29E (withRegs [(2, 5)]) State.pc 0x0020 = some 0x0204 ∧ after 0xE29E (withRegs [(2, 5)]) State.pc 0xFFDF = some 0x0202 := by decide
theorem test_skp_faults : faultAfter 0xE29E (withRegs [(2, 0x10)]) 0xFFFF =
    some (some ⟨.keyIndexOutOfRange, some 0xE29E, 0x0200, some 16⟩, 0x0202) := by decide
theorem test_sknp : after 0xE2A1 (withRegs [(2, 5)]) State.pc 0 = some 0x0204 ∧ after 0xE2A1 (withRegs [(2, 5)]) State.pc 0x0020 = some 0x0202 := by decide
theorem test_sknp_faults : faultAfter 0xE2A1 (withRegs [(2, 0x15)]) 0x0020 =
    some (some ⟨.keyIndexOutOfRange, some 0xE2A1, 0x0200, some 21⟩, 0x0202) := by decide
theorem test_ldVK_lowest : after 0xF30A State.reset (fun t => (t.reg 3, t.pc)) 0x0120 = some (0x05, 0x0202) := by decide
theorem test_ldVK_rewinds : after 0xF30A (withRegs [(3, 0x99)]) (fun t => (t.reg 3, t.pc)) 0 = some (0x99, 0x0200) := by decide
theorem test_ldVDt : after 0xF407 { State.reset with dt := 0x1E } (State.reg · 4) = some 0x1E := by decide
theorem test_ldDtV : after 0xF415 (withRegs [(4, 0x3C)]) (fun t => (t.dt, t.st)) = some (0x3C, 0) := by decide
theorem test_ldStV : after 0xF418 (withRegs [(4, 0x05)]) (fun t => (t.dt, t.st)) = some (0, 0x05) := by decide

/-- 3.2: the last fetchable address, and the first that is not. -/
theorem test_fetch_bounds : after 0x6001 { State.reset with pc := 0x0FFE } State.pc = some 0x1000 ∧
    faultAfter 0x6001 { State.reset with pc := 0x0FFF } = some (some ⟨.fetchOutOfBounds, none, 0x0FFF, none⟩, 0x0FFF) := by decide

/-- 4.1: the rows of `TimerTick`. -/
theorem test_tick : [(3, 1), (1, 0), (0, 0), (255, 255), (0, 7)].map (fun p : Byte × Byte =>
      let t := State.timerTick { State.reset with dt := p.1, st := p.2 }; (t.dt, t.st)) =
    [(2, 0), (0, 0), (0, 0), (254, 254), (0, 6)] := by decide

/-- R236, R110: two ticks before the step, and FX07 sees them. -/
theorem test_turn_ticks_first : (nextOf (step (State.withFetchWord { State.reset with dt := 5, schedule := [⟨2, 0, 0⟩] } 16 0xF407))).map
    (fun t => (t.reg 4, t.schedule)) = some (3, []) := by decide

/-- 4.2: `Reset([0x00, 0xE0, 0x12, 0x00])`. -/
theorem test_reset_image : (nextOf (event (.reset [0x00, 0xE0, 0x12, 0x00]) { State.reset with halted := true, pc := 7 })).map
    (fun t => (t.readBytes 0x1FF 6, t.pc, t.halted)) = some ([0, 0x00, 0xE0, 0x12, 0x00, 0], 0x0200, false) := by decide

/-! ### Witnesses: values that meet the hypotheses of each statement that has some, clause by clause -/

/-- A running machine in the middle of a program: a frame on the stack, data in memory, key 5 held. -/
def busy : State :=
  { (withRegs [(0, 1), (1, 1), (2, 5), (15, 0)]).writeBytes 0x300 [0xC0, 0xC0] with
    i := 0x300, sp := 1, stack := 0x0206 :: List.replicate 15 0, keys := 0x0020, rand8 := 0xB7, fb := lit [(2, 1)],
    dt := 3, st := 1, schedule := [⟨2, 0x0020, 0xB7⟩] }

/-- The same with a word placed at `pc`. -/
def busyOn (w : Nat) : State := busy.withFetchWord 16 w

/-- The same after a fault. -/
def stopped : State := { busy with pc := 0x0FFF }.raise .fetchOutOfBounds none 0x0FFF none

/-- One word of every row. -/
def oneWordEach : List Nat :=
  [0x00E0, 0x00EE, 0x1ABC, 0x2210, 0x3001, 0x4001, 0x5010, 0x6A3C, 0x7022, 0x8120, 0x8121, 0x8122] ++
  [0x8123, 0x8124, 0x8015, 0x8106, 0x8127, 0x811E, 0x9010, 0xA300, 0xB210, 0xC30F, 0xD012, 0xE29E] ++
  [0xE2A1, 0xF407, 0xF30A, 0xF415, 0xF418, 0xF01E, 0xF329, 0xF033, 0xF255, 0xF265]

/-- Whether a step event on `w` in the busy state answers a running state. -/
def runsOn (keys : BitVec 16) (rand8 : Byte) (w : Nat) : Bool :=
  match stepEvent keys rand8 (busyOn w) with
  | .next t => !t.halted
  | .fault _ => false
  | .refused _ => false

theorem inv_busy (m : Memory) (h : Memory.wf busy.params.fontTable m = true) : Inv { busy with mem := m } where
  params_valid := (by decide : busy.params.Valid)
  mem_wf := h
  stack_length := (by decide : busy.stack.length = busy.params.stackCapacity)
  sp_le := (by decide : busy.sp ≤ busy.params.stackCapacity)
  stack_bound := by
    intro k x hk hx
    obtain rfl : k = 0 := by change k < 1 at hk; omega
    obtain rfl : (0x0206 : Word) = x := Option.some.inj hx
    decide
  pc_bound := (by decide : busy.pc.toNat ≤ 0x10FE)
  halted_iff := (by decide : busy.halted = true ↔ busy.fault.isSome = true)
  fault_result := by intro r hr; exact absurd (hr : busy.fault = some r) (by simp [show busy.fault = none from rfl])
  running_result := by intro _ r; exact (by simp [show busy.result = none from rfl] : busy.result ≠ some (.fault r))

theorem inv_stopped : Inv stopped where
  params_valid := by decide
  mem_wf := by decide
  stack_length := by decide
  sp_le := by decide
  stack_bound := by
    intro k x hk hx
    obtain rfl : k = 0 := by change k < 1 at hk; omega
    obtain rfl : (0x0206 : Word) = x := Option.some.inj hx
    decide
  pc_bound := by decide
  halted_iff := by decide
  fault_result := by
    intro r hr
    obtain rfl : (⟨.fetchOutOfBounds, none, 0x0FFF, none⟩ : FaultRecord) = r := by simpa [stopped, State.raise] using hr
    exact ⟨rfl, by simp [RecordShape]⟩
  running_result := by intro h; exact absurd h (by simp [stopped, State.raise])

theorem witness_DecodeOfEncode : Instr.wf (.jpV 2 0x210) = true ∧ Instr.wf (.jpV 0 0x000) = true ∧ Instr.wf (.jpV 15 0xFFF) = true ∧
    Instr.wf (.drw 15 15 15) = true := by decide
theorem witness_EncodeOfDecode : decodeWord 0xB210 = some (.jpV 2 0x210) ∧ decodeWord 0x8FFE = some (.shl 15 15) := by decide
theorem witness_WordIsOfARow : (Instr.shl 1 2).row.Matches 0x8FFE ∧ ¬ (Instr.shl 1 2).row.Matches 0x8FFF := by decide
theorem witness_UnknownWords : [0x0000, 0x0FFF, 0x5001, 0x5FFF, 0x8008, 0x8FFF, 0x9001, 0x9FFF, 0xE000, 0xEFFF, 0xF000, 0xFFFF].map
    decodeWord = List.replicate 12 none := by decide
theorem witness_StepRuns : (busyOn 0xD012).halted = false ∧ (busyOn 0xD012).pc.toNat ≤ 4094 ∧
    decode [(busyOn 0xD012).readByte 0x200, (busyOn 0xD012).readByte 0x201] = .ok (.drw 0 1 2, []) := ⟨by decide, by decide, rfl⟩
theorem witness_StepRuns_at_the_last_address :
    decode [(State.withFetchWord { busy with pc := 4094 } 16 0x6001).readByte 4094,
      (State.withFetchWord { busy with pc := 4094 } 16 0x6001).readByte 4095] = .ok (.ldImm 0 1, []) := rfl
theorem witness_TurnIs : busy.halted = false ∧ busy.nextTurn.ticks = 2 := by decide
theorem witness_Fetch : (4094 : Word).toNat ≤ 4094 ∧ 4095 ≤ (4095 : Word).toNat ∧ busy.halted = false := by decide
theorem witness_UnknownWord : (busyOn 0x5121).halted = false ∧ (busyOn 0x5121).fetch = some 0x5121 ∧ decodeWord 0x5121 = none := by decide
theorem witness_HaltedMachine : Inv stopped ∧ stopped.halted = true := ⟨inv_stopped, by decide⟩
theorem witness_StepAlwaysReturns : Inv (busyOn 0xD012) ∧ Inv stopped := ⟨inv_busy (busyOn 0xD012).mem (by decide), inv_stopped⟩

/-- `DirtyExactlyForClearAndDraw`, `NextPcIsAsTabulated`: every row has a state in which it runs without a fault. -/
theorem witness_Dirty_and_NextPc : busy.halted = false ∧ busy.pc.toNat ≤ 4094 ∧
    (oneWordEach.all fun w => (decodeWord (busyOn w).wordAtPc).isSome && runsOn 0x0020 0xB7 w) = true := by decide
theorem witness_NextPc_other_outcomes :
    ([0x3002, 0x4002, 0x5020, 0x9020, 0xE29E, 0xE2A1, 0xF30A].all (runsOn 0 0)) = true := by decide

/-- Each of the six causes halts a running machine. -/
theorem witness_FaultsArePrecise :
    (faultAfter 0x5121 busy).map (·.2) = some 0x0202 ∧
    ([({ busy with pc := 4095 }, 0), (busy, 0x5121), ({ busy with sp := 16 }, 0x2210), ({ busy with sp := 0 }, 0x00EE),
      ({ busy with i := 4095 }, 0xF033), (busy.setReg 2 16, 0xE29E)].map fun p : State × Nat =>
        (faultAfter p.2 p.1).map fun r => r.1.map FaultRecord.cause) =
      [some (some .fetchOutOfBounds), some (some .unknownInstruction), some (some .stackOverflow), some (some .stackUnderflow),
        some (some .dataAccessOutOfBounds), some (some .keyIndexOutOfRange)] := by decide

theorem witness_Return : (busy.sp ≠ 0 ∧ busy.stack[busy.sp - 1]? = some 0x0206) ∧
    (State.stack { busy with sp := 16 })[15]? = some 0 ∧ State.sp { busy with sp := 0 } = 0 := by decide
theorem witness_Call : (State.sp { busy with sp := 15 } ≠ busy.params.stackCapacity ∧ 15 < busy.stack.length) ∧
    State.sp { busy with sp := 16 } = busy.params.stackCapacity := by decide
theorem witness_StatesOutside : (State.stack { busy with sp := 17 })[16]? = none ∧
    (17 ≠ busy.params.stackCapacity ∧ busy.stack.length ≤ 17) ∧
    (State.halted { busy with halted := true } = true ∧ State.fault { busy with halted := true } = none) := by decide
theorem witness_CallThenReturn : ∃ t u : State, (State.pc { busy with pc := 0x206 } = 0x204 + 2 ∧ busy.sp < busy.params.stackCapacity ∧
      busy.stack.length = busy.params.stackCapacity) ∧ exec (.call 0x210) { busy with pc := 0x206 } = .next t ∧
      u.sp = busy.sp + 1 ∧ u.stack[busy.sp]? = t.stack[busy.sp]? :=
  ⟨_, { busy with sp := 2, stack := [0x0206, 0x0206] }, by decide, rfl, by decide, by decide⟩
theorem witness_AddWritesCarry : (1 : RegIdx) ≠ 15 := by decide
theorem witness_DecimalDigits : (0x0FFD : Word).toNat + 2 < 4096 ∧ 4096 ≤ (0x0FFE : Word).toNat + 2 := by decide
theorem witness_RegisterRun : ((0x0FF0 : Word).toNat + (15 : RegIdx).val < 4096 ∧ 4096 ≤ (0x0FF1 : Word).toNat + (15 : RegIdx).val) ∧
    ((0x0FFF : Word).toNat + (0 : RegIdx).val < 4096 ∧ 4096 ≤ (0x1000 : Word).toNat + (0 : RegIdx).val) := by decide
theorem witness_StoreAndLoad_stored_then_loaded : ∃ t u w : State, busy.i.toNat + (2 : RegIdx).val < 4096 ∧ exec (.ldMemV 2) busy = .next t ∧
    u.i = t.i ∧ u.mem = t.mem ∧ u.params = t.params ∧ exec (.ldVMem 2) u = .next w :=
  ⟨_, busy.writeBytes 0x300 [1, 1, 5], _, by decide, rfl, by decide, by decide, by decide, rfl⟩
theorem witness_StoreAndLoad_loaded_then_stored : ∃ t w, Memory.wf busy.params.fontTable busy.mem = true ∧
    exec (.ldVMem 2) busy = .next t ∧ exec (.ldMemV 2) t = .next w := ⟨_, _, by decide, rfl, rfl⟩
theorem witness_StoredBytes : ∃ t, busy.i.toNat + (2 : RegIdx).val < 4096 ∧ (2 : RegIdx).val = (1 : RegIdx).val + 1 ∧
    (2 : RegIdx) ≤ 2 ∧ exec (.ldMemV 2) busy = .next t := ⟨_, by decide, by decide, by decide, rfl⟩
theorem witness_Draw : (0 : BitVec 4) = 0 ∧ (0x0FF1 : Word).toNat + (15 : BitVec 4).toNat - 1 < 4096 ∧
    ((15 : BitVec 4) ≠ 0 ∧ 4096 ≤ (0x0FF2 : Word).toNat + (15 : BitVec 4).toNat - 1) := by decide
theorem witness_DrawingTwice : ∃ t u, busy.i.toNat + (2 : BitVec 4).toNat - 1 < 4096 ∧ exec (.drw 0 1 2) busy = .next t ∧
    t.reg 0 = busy.reg 0 ∧ t.reg 1 = busy.reg 1 ∧ exec (.drw 0 1 2) t = .next u := ⟨_, _, by decide, rfl, by decide, by decide, rfl⟩
theorem witness_DrawingTwice_from_column_60 : ∃ t, (State.reg (busy.setReg 0 124) 0).toNat % 64 = 60 ∧
    exec (.drw 0 1 2) (busy.setReg 0 124) = .next t ∧ t.reg 0 = 124 := ⟨_, by decide, rfl, by decide⟩
theorem witness_KeySkips : (State.reg (busy.setReg 2 15) 2).toNat ≤ 15 ∧ 15 < (State.reg (busy.setReg 2 16) 2).toNat := by decide
theorem witness_KeyWait : State.keys { busy with keys := 0 } = 0 ∧
    (BitVec.getLsbD (0x8001 : BitVec 16) 0 = true) ∧
    (BitVec.getLsbD (0x8000 : BitVec 16) 15 = true ∧ ∀ j, j < 15 → BitVec.getLsbD (0x8000 : BitVec 16) j = false) := by decide
theorem witness_KeyWaitRefetches : (busyOn 0xF30A).halted = false ∧ (busyOn 0xF30A).pc.toNat ≤ 4094 ∧
    decodeWord (busyOn 0xF30A).wordAtPc = some (.ldVK 3) := by decide
theorem witness_Tick : busy.halted = false ∧ stopped.halted = true := by decide
theorem witness_Reset : (List.replicate 3584 (0x12 : Byte)).length ≤ 3584 ∧
    (List.replicate 3584 (0x12 : Byte))[3583]? = some 0x12 ∧ 3584 < (List.replicate 3585 (0x12 : Byte)).length := by
  refine ⟨by rw [List.length_replicate], ?_, by rw [List.length_replicate]; decide⟩
  rw [List.getElem?_replicate, if_pos (by decide)]
theorem witness_ResetInvariant : Config.Params.Valid Config.Params.default ∧
    Config.Params.Valid { Config.Params.default with stackCapacity := 17 } := by decide
theorem witness_StepKeeps : ∃ t, Inv (busyOn 0xD012) ∧ step (busyOn 0xD012) = .next t := ⟨_, inv_busy (busyOn 0xD012).mem (by decide), rfl⟩
theorem witness_EveryEvent : ∃ t u w, Inv (busyOn 0xD012) ∧ event (.reset [0x12, 0x00]) (busyOn 0xD012) = .next t ∧
    event (.step 0x0020 0xB7) (busyOn 0xD012) = .next u ∧ event .timerTick (busyOn 0xD012) = .next w :=
  ⟨_, _, _, inv_busy (busyOn 0xD012).mem (by decide), rfl, rfl, rfl⟩
theorem witness_RunsSafely : Inv (busyOn 0x1200) := inv_busy (busyOn 0x1200).mem (by decide)
theorem witness_EachPart : ∃ t, exec (.addI 0) busy = .next t ∧ t.v ≠ busy.v ∧ t.i ≠ busy.i := ⟨_, rfl, by decide, by decide⟩
theorem witness_VFChanges : ∃ t, exec (.drw 0 1 2) busy = .next t ∧ t.reg 15 ≠ busy.reg 15 := ⟨_, rfl, by decide⟩
theorem witness_Inputs : (∃ t, exec (.rnd 3 0x0F) busy = .next t ∧ ¬ ReadsKeys (.rnd 3 0x0F)) ∧
    ∃ t, exec (.skp 2) busy = .next t ∧ ∀ x nn, Instr.skp 2 ≠ .rnd x nn := by
  exact ⟨⟨_, rfl, id⟩, ⟨_, rfl, by simp⟩⟩

end Sys2Proof.Tests
end

section
/-! PROOFS. The encoding (30_encoding.md): each field of a word in arithmetic form (R81). -/

namespace Sys2Proof

/-- A slice of a word is a quotient reduced to the slice's width. -/
theorem toNat_extractLsb'_eq_div_mod (iw : Word) (start len : Nat) :
    (iw.extractLsb' start len).toNat = iw.toNat / 2 ^ start % 2 ^ len := by
  rw [BitVec.extractLsb'_toNat, Nat.shiftRight_eq_div_pow]

/-- A slice from bit 0 is a remainder. -/
theorem toNat_extractLsb'_zero_eq_mod (iw : Word) (len : Nat) :
    (iw.extractLsb' 0 len).toNat = iw.toNat % 2 ^ len := by
  rw [toNat_extractLsb'_eq_div_mod, Nat.pow_zero, Nat.div_one]

section
variable (iw : Word)

/-- `OP` is the top digit, so its slice needs no reduction. -/
@[simp] theorem fieldsOf_op_toNat : (fieldsOf iw).op.toNat = iw.toNat / 4096 := by
  have hslice : (fieldsOf iw).op.toNat = iw.toNat / 4096 % 16 := toNat_extractLsb'_eq_div_mod iw 12 4
  have hword : iw.toNat < 65536 := iw.isLt
  omega

@[simp] theorem fieldsOf_x_val : (fieldsOf iw).x.val = iw.toNat / 256 % 16 :=
  toNat_extractLsb'_eq_div_mod iw 8 4

@[simp] theorem fieldsOf_y_val : (fieldsOf iw).y.val = iw.toNat / 16 % 16 :=
  toNat_extractLsb'_eq_div_mod iw 4 4

@[simp] theorem fieldsOf_n_toNat : (fieldsOf iw).n.toNat = iw.toNat % 16 :=
  toNat_extractLsb'_zero_eq_mod iw 4

@[simp] theorem fieldsOf_nn_toNat : (fieldsOf iw).nn.toNat = iw.toNat % 256 :=
  toNat_extractLsb'_zero_eq_mod iw 8

@[simp] theorem fieldsOf_nnn_toNat : (fieldsOf iw).nnn.toNat = iw.toNat % 4096 :=
  toNat_extractLsb'_zero_eq_mod iw 12

end

/-- Settles O2, field by field. -/
theorem sixFieldsAreSlicesOfTheWord : Obligations.SixFieldsAreSlicesOfTheWord := fun iw =>
  ⟨fieldsOf_op_toNat iw, fieldsOf_x_val iw, fieldsOf_y_val iw, fieldsOf_n_toNat iw, fieldsOf_nn_toNat iw,
    fieldsOf_nnn_toNat iw⟩

end Sys2Proof
end

section
/-! PROOFS. The fetch of a step (40_fetch_decode.md R101): the word it reads, and the fault it takes past 4094. -/

namespace Sys2Proof

open Sys2Proof.Machine Sys2Proof.Statements

/-- Where the fetch is in bounds it yields the word at `pc`, with no test of alignment (D4). -/
theorem fetch_eq_wordAtPc {s : State} (hpc : s.pc.toNat ≤ 4094) : s.fetch = some s.wordAtPc :=
  (s.fetch_eq_some s.wordAtPc).2 ⟨hpc, rfl⟩

/-- The word at `pc` is the big-endian value of its two bytes (R57). -/
theorem wordAtPc_toNat (s : State) :
    s.wordAtPc.toNat = (s.readByte s.pc.toNat).toNat * 256 + (s.readByte (s.pc.toNat + 1)).toNat :=
  toNat_joinBytes _ _

/-- Taking a fault is all that `haltedWith` says and nothing more (R226). -/
theorem raise_eq_haltedWith (s : State) (cause : FaultCause) (iw : Option Word) (faultPc : Word) (addr : Option Nat) :
    s.raise cause iw faultPc addr = haltedWith s cause iw faultPc addr := rfl

/-- A fetch with no word ends the step before the advance, so `pc` stays (R101, D11). -/
theorem runStep_of_fetch_eq_none {s : State} (hfetch : s.fetch = none) :
    runStep s = .next (haltedWith s .fetchOutOfBounds none s.pc none) := by
  rw [← raise_eq_haltedWith]
  simp [runStep, hfetch]

/-- The `Step` event of a running machine is `runStep` on the sampled inputs (R100). -/
theorem stepEvent_of_running {s : State} (keys : BitVec 16) (rand8 : Byte) (hrun : s.halted = false) :
    stepEvent keys rand8 s = runStep (s.sample keys rand8) := by
  simp [stepEvent, hrun]

/-- Sampling the inputs moves neither `pc` nor memory, so the fetch is the same. -/
@[simp] theorem sample_fetch (s : State) (keys : BitVec 16) (rand8 : Byte) :
    (s.sample keys rand8).fetch = s.fetch := rfl

/-- Settles O9: below 4095 the fetch yields the word at `pc`; from 4095 on there is none, before the `Step` event's
sampling and after it. -/
theorem fetchSucceedsExactlyBelow4095 : Obligations.FetchSucceedsExactlyBelow4095 := by
  intro s keys rand8
  constructor
  · intro hpc
    exact ⟨s.wordAtPc, fetch_eq_wordAtPc hpc, wordAtPc_toNat s⟩
  · intro hpc
    have hfetch : s.fetch = none := s.fetch_eq_none.2 hpc
    refine ⟨hfetch, fun hrun => ?_⟩
    rw [stepEvent_of_running keys rand8 hrun]
    exact runStep_of_fetch_eq_none ((sample_fetch s keys rand8).trans hfetch)

end Sys2Proof
end

section
/-! PROOFS. Control transfer (41_control_transfer.md): jumps, call and return, and the skips, at the level of `exec`,
where `pc` is already the advanced one (R102). -/

namespace Sys2Proof

open Sys2Proof.Machine Sys2Proof.Statements

/-! ### Jump targets (R82, R7) -/

/-- A 12-bit immediate keeps its value in a 16-bit register. -/
@[simp] theorem zextNnn_toNat (nnn : BitVec 12) : (zextNnn nnn).toNat = nnn.toNat :=
  BitVec.toNat_setWidth_of_le (by decide)

theorem zextNnn_eq_ofNat (nnn : BitVec 12) : zextNnn nnn = BitVec.ofNat 16 nnn.toNat :=
  (BitVec.ofNat_toNat 16 nnn).symm

/-- BNNN's sum is at most 255 + 4095, so reducing it to 16 bits changes nothing. -/
@[simp] theorem jumpOffset_toNat (b : Byte) (nnn : BitVec 12) : (jumpOffset b nnn).toNat = b.toNat + nnn.toNat := by
  have hbyte : b.toNat < 256 := b.isLt
  have hnnn : nnn.toNat < 4096 := nnn.isLt
  rw [jumpOffset, BitVec.toNat_ofNat]
  omega

/-! ### The conditional skip (R128) -/

/-- A skip that is not taken leaves `pc`, so a conditional skip is one write of `pc`. -/
theorem skipIf_eq_setPc (s : State) (c : Bool) : s.skipIf c = s.setPc (if c then s.pc + 2 else s.pc) := by
  cases c <;> rfl

theorem skipIf_beq (s : State) (a b : Byte) :
    s.skipIf (a == b) = s.setPc (if a.toNat = b.toNat then s.pc + 2 else s.pc) := by
  rw [skipIf_eq_setPc]
  simp only [beq_iff_eq, BitVec.toNat_inj]

theorem skipIf_bne (s : State) (a b : Byte) :
    s.skipIf (a != b) = s.setPc (if a.toNat = b.toNat then s.pc else s.pc + 2) := by
  rw [skipIf_eq_setPc]
  simp only [bne_iff_ne, BitVec.toNat_inj, ite_not]

/-! ### Return and call, case by case (R120, R122) -/

section
variable {s : State}

theorem exec_ret_of_entry {w : Word} (hsp : s.sp ≠ 0) (hentry : s.stack[s.sp - 1]? = some w) :
    exec .ret s = .next (s.popTo w) := by
  simp [exec, execRet, hsp, hentry]

theorem exec_ret_of_empty (hsp : s.sp = 0) :
    exec .ret s = .next (s.raiseFrom .ret .stackUnderflow none) := by
  simp [exec, execRet, hsp]

variable (nnn : BitVec 12)

theorem exec_call_of_room (hcap : s.sp ≠ s.params.stackCapacity) (hslot : s.sp < s.stack.length) :
    exec (.call nnn) s = .next ((s.push s.pc).setPc (zextNnn nnn)) := by
  simp [exec, execCall, hcap, hslot]

theorem exec_call_of_full (hcap : s.sp = s.params.stackCapacity) :
    exec (.call nnn) s = .next (s.raiseFrom (.call nnn) .stackOverflow none) := by
  simp [exec, execCall, hcap]

end

/-- A fault raised by an instruction is `haltedWith` its word and the address before the advance (R220, R226). -/
theorem raiseFrom_eq_haltedWith (s : State) (i : Instr) (cause : FaultCause) (addr : Option Nat) :
    s.raiseFrom i cause addr = haltedWith s cause (some (encode i)) (s.pc - 2) addr := rfl

theorem encode_ret : encode .ret = 0x00EE := by decide

theorem encode_call (nnn : BitVec 12) : encode (.call nnn) = BitVec.ofNat 16 (0x2000 + nnn.toNat) := rfl

/-- The entry a push writes is the one at the old `SP` (R27, D17). -/
theorem push_stack_getElem?_sp {s : State} (w : Word) (hslot : s.sp < s.stack.length) :
    (s.push w).stack[s.sp]? = some w := by
  rw [State.push_stack, List.getElem?_set_self hslot]

/-! ### The statements -/

/-- Settles O16: the two sides of 00EE's test for an empty stack. -/
theorem returnPopsOrUnderflows : Obligations.ReturnPopsOrUnderflows := by
  intro s
  constructor
  · intro w hsp hentry
    exact exec_ret_of_entry hsp hentry
  · intro hsp
    rw [exec_ret_of_empty hsp, raiseFrom_eq_haltedWith, encode_ret]

/-- Settles O17: 1NNN is one write of `pc`, its target zero-extended. -/
theorem jumpSetsPcToNNN : Obligations.JumpSetsPcToNNN := fun s nnn =>
  ⟨s.setPc (zextNnn nnn), rfl, rfl, zextNnn_toNat nnn⟩

/-- Settles O18: the two sides of 2NNN's test for a full stack. -/
theorem callPushesOrOverflows : Obligations.CallPushesOrOverflows := by
  intro s nnn
  constructor
  · intro hcap hslot
    rw [exec_call_of_room nnn hcap hslot, zextNnn_eq_ofNat]
    rfl
  · intro hcap
    rw [exec_call_of_full nnn hcap, raiseFrom_eq_haltedWith, encode_call]

/-- Settles O19: each skip is a conditional skip on an equality of bytes or on its negation. -/
theorem skipsAddTwoExactlyOnTheirCondition : Obligations.SkipsAddTwoExactlyOnTheirCondition := fun s x y nn =>
  ⟨congrArg _ (skipIf_beq s (s.reg x) nn), congrArg _ (skipIf_bne s (s.reg x) nn),
    congrArg _ (skipIf_beq s (s.reg x) (s.reg y)), congrArg _ (skipIf_bne s (s.reg x) (s.reg y))⟩

/-- Settles O20: BNNN is one write of `pc`, its target the unreduced sum. -/
theorem jumpWithOffsetAddsVX : Obligations.JumpWithOffsetAddsVX := fun s x nnn =>
  ⟨s.setPc (jumpOffset (s.reg x) nnn), rfl, rfl, jumpOffset_toNat (s.reg x) nnn⟩

/-- Settles O22: the call leaves `a + 2` in the entry at the old `SP`, and the return, one level up, pops that entry. -/
theorem callThenReturnComesBack : Obligations.CallThenReturnComesBack := by
  intro s t u a nnn hpc hcap hlen hcall hsp hkept
  have hslot : s.sp < s.stack.length := hlen ▸ hcap
  rw [exec_call_of_room nnn hcap.ne hslot] at hcall
  cases hcall
  have hentry : u.stack[u.sp - 1]? = some (a + 2) := by
    rw [hsp, Nat.add_sub_cancel, hkept, State.setPc_stack, ← hpc]
    exact push_stack_getElem?_sp s.pc hslot
  rw [exec_ret_of_entry (by omega) hentry, State.popTo, hsp, Nat.add_sub_cancel]

end Sys2Proof
end

section
/-! PROOFS. Moves, arithmetic and logic (42_alu.md): what the two kinds of register write leave, and the arithmetic
form of the values and flags written. -/

namespace Sys2Proof

open Sys2Proof.Machine Sys2Proof.Statements

/-! ### Register writes (R22, R140) -/

section
variable (s : State) (x : RegIdx) (b : Byte)

/-- A register write changes that register alone. -/
theorem setReg_onlyReg : OnlyReg s (s.setReg x b) x b := by
  refine ⟨rfl, s.reg_setReg_self x b, fun k hk => ?_⟩
  rw [State.reg_setReg, if_neg hk.symm]

/-- Writing the flag and then the result leaves the result in `V[x]`, and the flag in VF where the two differ. -/
theorem setFlagThenReg_flagThenReg (flag : Byte) : FlagThenReg s (s.setFlagThenReg flag x b) x flag b := by
  refine ⟨rfl, ?_, fun hx => ?_, fun k hk hkF => ?_⟩
  · rw [State.reg_setFlagThenReg, if_pos rfl]
  · rw [State.reg_setFlagThenReg, if_neg hx, if_pos rfl]
  · rw [State.reg_setFlagThenReg, if_neg hk.symm, if_neg hkF.symm]

end

/-! ### Values and flags in arithmetic form (R7, R21) -/

section
variable (a b : Byte)

theorem byte_add_eq_ofNat : a + b = BitVec.ofNat 8 ((a.toNat + b.toNat) % 256) := by
  rw [← BitVec.toNat_add, BitVec.ofNat_toNat, BitVec.setWidth_eq]

theorem byte_sub_eq_ofNat : a - b = BitVec.ofNat 8 ((a.toNat + 256 - b.toNat) % 256) := by
  have hb : b.toNat < 256 := b.isLt
  apply BitVec.eq_of_toNat_eq
  rw [BitVec.toNat_sub, BitVec.toNat_ofNat]
  omega

theorem carryFlag_eq_ite : carryFlag a b = if a.toNat + b.toNat > 255 then 1 else 0 := by
  simp only [carryFlag, flagByte, decide_eq_true_eq]

theorem greaterFlag_eq_ite : greaterFlag a b = if a.toNat > b.toNat then 1 else 0 := by
  simp only [greaterFlag, flagByte, decide_eq_true_eq]

theorem carryFlag_eq_one_iff : carryFlag a b = 1 ↔ 255 < a.toNat + b.toNat := by
  rw [carryFlag_eq_ite]
  split <;> simp [*]

/-- The sum carries exactly where wrapping makes it less than a summand: it then lost 256, and the other summand is
less than that. -/
theorem carry_iff_wrapped_lt : 255 < a.toNat + b.toNat ↔ (a + b).toNat < a.toNat := by
  have ha : a.toNat < 256 := a.isLt
  have hb : b.toNat < 256 := b.isLt
  rw [BitVec.toNat_add]
  omega

end

/-! ### The statements -/

/-- Settles O23: each of the six is one register write of the stated value; 7XNN's is the wrapped sum. -/
theorem movesAndLogicWriteOnlyVX : Obligations.MovesAndLogicWriteOnlyVX := by
  intro s x y nn
  rw [← byte_add_eq_ofNat]
  exact ⟨⟨_, rfl, setReg_onlyReg s x nn⟩, ⟨_, rfl, setReg_onlyReg s x (s.reg x + nn)⟩,
    ⟨_, rfl, setReg_onlyReg s x (s.reg y)⟩, ⟨_, rfl, setReg_onlyReg s x (s.reg x ||| s.reg y)⟩,
    ⟨_, rfl, setReg_onlyReg s x (s.reg x &&& s.reg y)⟩, ⟨_, rfl, setReg_onlyReg s x (s.reg x ^^^ s.reg y)⟩⟩

/-- Settles O24: 8XY4 writes carry and sum in R140's order; where VF keeps the carry, it is 1 exactly
when the sum wrapped below the old `V[X]`. -/
theorem addWritesCarryThenSum : Obligations.AddWritesCarryThenSum := by
  intro s x y
  have hwrites := setFlagThenReg_flagThenReg s x (s.reg x + s.reg y) (carryFlag (s.reg x) (s.reg y))
  rw [← carryFlag_eq_ite, ← byte_add_eq_ofNat]
  refine ⟨_, rfl, hwrites, fun hx => ?_⟩
  obtain ⟨-, hsum, hflag, -⟩ := hwrites
  rw [hflag hx, hsum, carryFlag_eq_one_iff]
  exact carry_iff_wrapped_lt (s.reg x) (s.reg y)

/-- Settles O25: 8XY5 and 8XY7 write flag and difference in R140's order, 8XY7 with the operands of 8XY5
exchanged. -/
theorem subtractWritesStrictFlagThenDifference : Obligations.SubtractWritesStrictFlagThenDifference := by
  intro s x y
  rw [← greaterFlag_eq_ite, ← byte_sub_eq_ofNat, ← greaterFlag_eq_ite, ← byte_sub_eq_ofNat]
  exact ⟨⟨_, rfl, setFlagThenReg_flagThenReg s x _ _⟩, ⟨_, rfl, setFlagThenReg_flagThenReg s x _ _⟩⟩

end Sys2Proof
end

section
/-! PROOFS. The shifts (43_shift.md): the bit shifted out and the shifted value in arithmetic form. -/

namespace Sys2Proof

open Sys2Proof.Machine Sys2Proof.Statements

/-! ### The bit shifted out (R21, R160, R161) -/

theorem flagByte_eq_ofNat (c : Bool) : flagByte c = BitVec.ofNat 8 c.toNat := by
  cases c <;> rfl

section
variable (a : Byte)

/-- The flag byte of bit `k` is the parity of the quotient by `2 ^ k`. -/
theorem flagByte_getLsbD (k : Nat) : flagByte (a.getLsbD k) = BitVec.ofNat 8 (a.toNat / 2 ^ k % 2) := by
  rw [flagByte_eq_ofNat, ← BitVec.testBit_toNat, Nat.toNat_testBit]

theorem shiftRightFlag_eq_ofNat : shiftRightFlag a = BitVec.ofNat 8 (a.toNat % 2) := by
  rw [shiftRightFlag, flagByte_getLsbD, Nat.pow_zero, Nat.div_one]

/-- Bit 7 is a byte's top bit, so its quotient needs no reduction. -/
theorem shiftLeftFlag_eq_ofNat : shiftLeftFlag a = BitVec.ofNat 8 (a.toNat / 128) := by
  have hflag : shiftLeftFlag a = BitVec.ofNat 8 (a.toNat / 128 % 2) := flagByte_getLsbD a 7
  have htop : a.toNat / 128 < 2 := Nat.div_lt_of_lt_mul a.isLt
  rw [hflag, Nat.mod_eq_of_lt htop]

/-! ### The shifted value (R160, R161) -/

theorem byte_ushiftRight_one_eq_ofNat : a >>> 1 = BitVec.ofNat 8 (a.toNat / 2) := by
  have hhalf : a.toNat / 2 < 256 := (Nat.div_le_self _ _).trans_lt a.isLt
  apply BitVec.eq_of_toNat_eq
  rw [BitVec.toNat_ushiftRight, Nat.shiftRight_one, BitVec.toNat_ofNat, Nat.mod_eq_of_lt hhalf]

theorem byte_shiftLeft_one_eq_ofNat : a <<< 1 = BitVec.ofNat 8 (a.toNat * 2 % 256) := by
  apply BitVec.eq_of_toNat_eq
  rw [BitVec.toNat_shiftLeft, BitVec.toNat_ofNat, Nat.shiftLeft_eq, Nat.pow_one, Nat.mod_mod]

end

/-! ### The statement -/

/-- Settles O26: each shift is a write of the flag and then of the shifted value, both computed from the old `V[X]`. -/
theorem shiftsWriteTheBitShiftedOutThenTheValue : Obligations.ShiftsWriteTheBitShiftedOutThenTheValue := by
  intro s x y
  rw [← shiftRightFlag_eq_ofNat, ← byte_ushiftRight_one_eq_ofNat, ← shiftLeftFlag_eq_ofNat,
    ← byte_shiftLeft_one_eq_ofNat]
  exact ⟨⟨_, rfl, setFlagThenReg_flagThenReg s x _ _⟩, ⟨_, rfl, setFlagThenReg_flagThenReg s x _ _⟩⟩

end Sys2Proof
end

section
/-! PROOFS. The index register and data memory (44_index_memory.md): the loads of `I`, and the three checked accesses,
each with the two sides of its bounds check (R61, D5). -/

namespace Sys2Proof

open Sys2Proof.Machine Sys2Proof.Statements

/-! ### The address of a glyph (R172, D14) -/

/-- The last address a glyph can have is `0x050 + 5 * 255`, so reducing it to 16 bits changes nothing. -/
@[simp] theorem glyphAddress_toNat (b : Byte) : (glyphAddress b).toNat = 0x050 + 5 * b.toNat := by
  have hbyte : b.toNat < 256 := b.isLt
  rw [glyphAddress, BitVec.toNat_ofNat]
  omega

/-! ### The two sides of the bounds check (R61) -/

section
variable {s : State} {n : Nat}

theorem dataFault_of_fits (hfit : s.i.toNat + n ≤ 4096) : s.dataFault n = none :=
  (s.dataFault_eq_none n).2 (.inr hfit)

theorem dataFault_succ_of_past (hpast : 4096 ≤ s.i.toNat + n) : s.dataFault (n + 1) = some (max s.i.toNat 4096) :=
  (s.dataFault_eq_some (n + 1) _).2 ⟨⟨by omega, by omega⟩, rfl⟩

end

/-! ### FX33, FX55 and FX65, case by case (R174 to R176) -/

section
variable {s : State} (x : RegIdx)

theorem exec_ldB_of_fits (hfit : s.i.toNat + 2 < 4096) :
    exec (.ldB x) s = .next (s.writeBytes s.i.toNat (decimalDigits (s.reg x))) := by
  simp only [exec, execLdB, dataFault_of_fits (n := 3) hfit]

theorem exec_ldB_of_past (hpast : 4096 ≤ s.i.toNat + 2) :
    exec (.ldB x) s = .next (s.raiseFrom (.ldB x) .dataAccessOutOfBounds (some (max s.i.toNat 4096))) := by
  simp only [exec, execLdB, dataFault_succ_of_past hpast]

theorem exec_ldMemV_of_fits (hfit : s.i.toNat + x.val < 4096) :
    exec (.ldMemV x) s = .next (s.writeBytes s.i.toNat (s.regRun x)) := by
  simp only [exec, execLdMemV, dataFault_of_fits (n := x.val + 1) hfit]

theorem exec_ldMemV_of_past (hpast : 4096 ≤ s.i.toNat + x.val) :
    exec (.ldMemV x) s = .next (s.raiseFrom (.ldMemV x) .dataAccessOutOfBounds (some (max s.i.toNat 4096))) := by
  simp only [exec, execLdMemV, dataFault_succ_of_past hpast]

theorem exec_ldVMem_of_fits (hfit : s.i.toNat + x.val < 4096) :
    exec (.ldVMem x) s = .next (s.loadRun x) := by
  simp only [exec, execLdVMem, dataFault_of_fits (n := x.val + 1) hfit]

theorem exec_ldVMem_of_past (hpast : 4096 ≤ s.i.toNat + x.val) :
    exec (.ldVMem x) s = .next (s.raiseFrom (.ldVMem x) .dataAccessOutOfBounds (some (max s.i.toNat 4096))) := by
  simp only [exec, execLdVMem, dataFault_succ_of_past hpast]

theorem encode_ldB : encode (.ldB x) = BitVec.ofNat 16 (0xF033 + 256 * x.val) := by
  rw [Nat.mul_comm]; rfl

theorem encode_ldMemV : encode (.ldMemV x) = BitVec.ofNat 16 (0xF055 + 256 * x.val) := by
  rw [Nat.mul_comm]; rfl

theorem encode_ldVMem : encode (.ldVMem x) = BitVec.ofNat 16 (0xF065 + 256 * x.val) := by
  rw [Nat.mul_comm]; rfl

end

/-! ### Bytes stored and bytes left alone (R59, R173) -/

section
variable (s : State) (a : Nat) (bs : List Byte)

theorem readByte_writeBytes_inside {k : Nat} (hk : k < bs.length) :
    (s.writeBytes a bs).readByte (a + k) = bs.getD k 0 := by
  rw [State.readByte_writeBytes, if_pos ⟨by omega, by omega⟩, Nat.add_sub_cancel_left]

theorem readByte_writeBytes_outside {k : Nat} (hk : k < a ∨ a + bs.length ≤ k) :
    (s.writeBytes a bs).readByte k = s.readByte k := by
  rw [State.readByte_writeBytes, if_neg (by omega)]

end

/-- Each of FX33's digits is below 256, so it is kept whole by its byte (R174). -/
theorem decimalDigits_toNat (b : Byte) :
    (decimalDigits b).map BitVec.toNat = [b.toNat / 100, b.toNat / 10 % 10, b.toNat % 10] := by
  have hbyte : b.toNat < 256 := b.isLt
  simp only [decimalDigits, List.map_cons, List.map_nil, BitVec.toNat_ofNat, List.cons.injEq, and_true]
  omega

/-- FX33's store, digit by digit. -/
theorem readByte_writeBytes_decimalDigits (s : State) (a : Nat) (b : Byte) :
    ((s.writeBytes a (decimalDigits b)).readByte a).toNat = b.toNat / 100 ∧
      ((s.writeBytes a (decimalDigits b)).readByte (a + 1)).toNat = b.toNat / 10 % 10 ∧
      ((s.writeBytes a (decimalDigits b)).readByte (a + 2)).toNat = b.toNat % 10 := by
  have hdigit : ∀ k < 3, ((s.writeBytes a (decimalDigits b)).readByte (a + k)).toNat =
      ((decimalDigits b).map BitVec.toNat).getD k 0 := by
    intro k hk
    rw [readByte_writeBytes_inside s a (decimalDigits b) hk]
    exact (List.getD_map _ 0 BitVec.toNat).symm
  rw [decimalDigits_toNat] at hdigit
  exact ⟨hdigit 0 (by decide), hdigit 1 (by decide), hdigit 2 (by decide)⟩

/-! ### The statements -/

/-- Settles O27: each is one write of `I`. -/
theorem indexLoadsWriteOnlyI : Obligations.IndexLoadsWriteOnlyI := fun s x nnn =>
  ⟨⟨s.setIndex (zextNnn nnn), rfl, rfl, zextNnn_toNat nnn⟩,
    ⟨s.setIndex (glyphAddress (s.reg x)), rfl, rfl, glyphAddress_toNat (s.reg x)⟩⟩

/-- Settles O29: the two sides of FX33's bounds check. -/
theorem decimalDigitsStoredOrFault : Obligations.DecimalDigitsStoredOrFault := by
  intro s x
  constructor
  · intro hfit
    obtain ⟨hhundreds, htens, hones⟩ := readByte_writeBytes_decimalDigits s s.i.toNat (s.reg x)
    refine ⟨_, exec_ldB_of_fits x hfit, rfl, hhundreds, htens, hones, fun a ha => ?_⟩
    exact readByte_writeBytes_outside s s.i.toNat (decimalDigits (s.reg x)) ha
  · intro hpast
    rw [exec_ldB_of_past x hpast, raiseFrom_eq_haltedWith, encode_ldB]

/-- Settles O30: the two sides of FX55's bounds check. -/
theorem registerRunStoredOrFault : Obligations.RegisterRunStoredOrFault := by
  intro s x
  constructor
  · intro hfit
    have hlen : (s.regRun x).length = x.val + 1 := s.length_regRun x
    refine ⟨_, exec_ldMemV_of_fits x hfit, rfl, fun k hk => ?_, fun a ha => ?_⟩
    · have hrun : k.val < (s.regRun x).length := hlen ▸ Nat.lt_succ_of_le hk
      rw [readByte_writeBytes_inside s s.i.toNat (s.regRun x) hrun, State.getD_regRun s x k hk]
    · exact readByte_writeBytes_outside s s.i.toNat (s.regRun x) (by omega)
  · intro hpast
    rw [exec_ldMemV_of_past x hpast, raiseFrom_eq_haltedWith, encode_ldMemV]

/-- Settles O31: the two sides of FX65's bounds check. -/
theorem registerRunLoadedOrFault : Obligations.RegisterRunLoadedOrFault := by
  intro s x
  constructor
  · intro hfit
    refine ⟨_, exec_ldVMem_of_fits x hfit, rfl, fun k hk => ?_, fun k hk => ?_⟩
    · rw [State.reg_loadRun, if_pos (Fin.le_def.1 hk)]
    · rw [State.reg_loadRun, if_neg (Nat.not_le.2 hk)]
  · intro hpast
    rw [exec_ldVMem_of_past x hpast, raiseFrom_eq_haltedWith, encode_ldVMem]

end Sys2Proof
end

section
/-! PROOFS. The framebuffer instructions (45_display.md): the draw of DXYN said of one pixel and of VF, in terms of the
sprite's bits `spriteCovers`, and what a second draw of the same sprite does (R190 to R193). -/

namespace Sys2Proof

open Sys2Proof.Machine Sys2Proof.Statements

/-! ### The sprite read from memory (R191) -/

theorem readBytes_getD (s : State) (a n k : Nat) :
    (s.readBytes a n).getD k 0 = if k < n then s.readByte (a + k) else 0 := by
  rw [State.readBytes, List.getD_eq_getElem?_getD, List.getElem?_map]
  split
  · rw [List.getElem?_range ‹k < n›]; rfl
  · rw [List.getElem?_eq_none (by simpa using ‹¬ k < n›)]; rfl

section
variable (s : State) (x y : RegIdx) (n py px : Nat)

/-- The bits the draw loop finds in the bytes at `I` are `spriteCovers`: a sprite has none below its last row. -/
theorem spriteBit_readBytes_eq_spriteCovers :
    spriteBit (originY (s.reg y)) (originX (s.reg x)) (s.readBytes s.i.toNat n) py px = spriteCovers s x y n py px := by
  rw [Bool.eq_iff_iff]
  simp only [spriteBit, spriteCovers, readBytes_getD, Bool.and_eq_true, decide_eq_true_eq, and_assoc]
  simp only [originX, originY]
  refine and_congr_right fun hrow => ?_
  by_cases hlast : py < (s.reg y).toNat % 32 + n
  · have hbyte : py - (s.reg y).toNat % 32 < n := by omega
    simp [hlast, hbyte]
  · have hbyte : ¬ py - (s.reg y).toNat % 32 < n := by omega
    simp [hlast, hbyte]

/-- A sprite's bits lie in the 8 columns from its origin on. -/
theorem spriteCovers_left_of_origin (hleft : px < (s.reg x).toNat % 64) : spriteCovers s x y n py px = false := by
  simp [spriteCovers, Nat.not_le.2 hleft]

/-! ### One draw, pixel by pixel (R191) -/

@[simp] theorem drawSprite_i : (s.drawSprite x y n).i = s.i := rfl

@[simp] theorem drawSprite_readByte (a : Nat) : (s.drawSprite x y n).readByte a = s.readByte a := rfl

/-- Each pixel is its old value XOR the sprite's bit. -/
theorem drawSprite_pixel {py px : Nat} (hpy : py < 32) (hpx : px < 64) :
    (s.drawSprite x y n).pixel py px = (s.pixel py px ^^ spriteCovers s x y n py px) := by
  rw [← spriteBit_readBytes_eq_spriteCovers]
  exact get_drawRows _ _ _ (s.fb, false) py px hpy hpx

theorem flagByte_eq_one_iff (c : Bool) : flagByte c = 1 ↔ c = true := by
  cases c <;> decide

/-- VF is 1 exactly where a sprite bit that is 1 met a lit pixel. -/
theorem drawSprite_collides_iff : (s.drawSprite x y n).reg 15 = 1 ↔
    ∃ py px, py < 32 ∧ px < 64 ∧ spriteCovers s x y n py px = true ∧ s.pixel py px = true := by
  have hflag : (s.drawSprite x y n).reg 15 = flagByte
      (drawRows (originY (s.reg y)) (originX (s.reg x)) (s.readBytes s.i.toNat n) (s.fb, false)).2 :=
    State.reg_setReg_self _ vF _
  rw [hflag, flagByte_eq_one_iff, snd_drawRows]
  simp only [Bool.false_eq_true, false_or, spriteBit_readBytes_eq_spriteCovers]
  rfl

end

/-! ### 00E0 and DXYN, case by case (R190, R191) -/

theorem exec_cls (s : State) : exec .cls s = .next ({ s with fb := Framebuffer.blank }.setDirty true) := rfl

section
variable {s : State} (x y : RegIdx) {n : BitVec 4}

/-- No byte is checked for N = 0 (D19). -/
theorem exec_drw_of_fits (hfit : n = 0 ∨ s.i.toNat + n.toNat - 1 < 4096) :
    exec (.drw x y n) s = .next (s.drawSprite x y n.toNat) := by
  have hnone : s.dataFault n.toNat = none := by
    rw [State.dataFault_eq_none]
    rcases hfit with rfl | hfit
    · exact .inl rfl
    · right; omega
  simp only [exec, execDrw, hnone]

end

/-! ### A second draw at the same origin (R192) -/

section
variable (s : State) (x y : RegIdx) (n : Nat)
  (hx : (s.drawSprite x y n).reg x = s.reg x) (hy : (s.drawSprite x y n).reg y = s.reg y)
include hx hy

/-- A draw moves neither `I` nor memory, so with the same origin the second sprite is the first. -/
theorem spriteCovers_drawSprite (py px : Nat) :
    spriteCovers (s.drawSprite x y n) x y n py px = spriteCovers s x y n py px := by
  simp only [spriteCovers, hx, hy, drawSprite_i, drawSprite_readByte]

/-- The two XORs with the same bit cancel at every pixel. -/
theorem drawSprite_twice_fb : ((s.drawSprite x y n).drawSprite x y n).fb = s.fb := by
  refine Framebuffer.ext_get _ _ fun py px hpy hpx => ?_
  calc ((s.drawSprite x y n).drawSprite x y n).pixel py px
      = (s.pixel py px ^^ spriteCovers s x y n py px ^^ spriteCovers s x y n py px) := by
        rw [drawSprite_pixel _ x y n hpy hpx, drawSprite_pixel s x y n hpy hpx, spriteCovers_drawSprite s x y n hx hy]
    _ = s.pixel py px := by rw [Bool.xor_assoc, Bool.xor_self, Bool.xor_false]

/-- A covered pixel is on before the second draw exactly where it was off before the first (C14). -/
theorem drawSprite_twice_collides_iff : ((s.drawSprite x y n).drawSprite x y n).reg 15 = 1 ↔
    ∃ py px, py < 32 ∧ px < 64 ∧ spriteCovers s x y n py px = true ∧ s.pixel py px = false := by
  rw [drawSprite_collides_iff]
  refine exists₂_congr fun py px => and_congr_right fun hpy => and_congr_right fun hpx => ?_
  rw [spriteCovers_drawSprite s x y n hx hy, drawSprite_pixel s x y n hpy hpx]
  refine and_congr_right fun hcovered => ?_
  rw [hcovered, Bool.xor_true, Bool.not_eq_true']

end

/-! ### The statements -/

/-- Settles O34: 00E0 is one write of the blank framebuffer and of `dirty`. -/
theorem clearTurnsEveryPixelOff : Obligations.ClearTurnsEveryPixelOff := fun s =>
  ⟨_, exec_cls s, rfl, fun y x _ _ => Framebuffer.get_blank y x⟩

/-- Settles O36: both draws are `drawSprite`, the second with the first's sprite; from column 60 on a sprite has no bit
left of its origin. -/
theorem drawingTwiceRestoresTheScreen : Obligations.DrawingTwiceRestoresTheScreen := by
  intro s t u x y n hfit hfirst hx hy hsecond
  obtain rfl : s.drawSprite x y n.toNat = t := Host.Outcome.next.inj ((exec_drw_of_fits x y hfit).symm.trans hfirst)
  obtain rfl : (s.drawSprite x y n.toNat).drawSprite x y n.toNat = u :=
    Host.Outcome.next.inj ((exec_drw_of_fits (s := s.drawSprite x y n.toNat) x y hfit).symm.trans hsecond)
  refine ⟨drawSprite_twice_fb s x y n.toNat hx hy, drawSprite_collides_iff s x y n.toNat,
    drawSprite_twice_collides_iff s x y n.toNat hx hy, fun hcolumn py px hpy hpx => ?_⟩
  have huncovered : spriteCovers s x y n.toNat py px = false :=
    spriteCovers_left_of_origin s x y n.toNat py px (hcolumn ▸ hpx)
  rw [drawSprite_pixel s x y n.toNat hpy (by omega), huncovered, Bool.xor_false]

end Sys2Proof
end

section
/-! PROOFS. The random byte, the key wait and the timer moves (46_timers_keys_random.md): the meaning of each
instruction as one write of the state, FX0A by the two answers of its key search. -/

namespace Sys2Proof

open Sys2Proof.Machine Sys2Proof.Statements

/-! ### CXNN, FX07, FX15 and FX18 (R200, R203, R205, R206) -/

section
variable (s : State) (x : RegIdx)

theorem exec_rnd (nn : BitVec 8) : exec (.rnd x nn) s = .next (s.setReg x (s.rand8 &&& nn)) := rfl

theorem exec_ldVDt : exec (.ldVDt x) s = .next (s.setReg x s.dt) := rfl

theorem exec_ldDtV : exec (.ldDtV x) s = .next (s.setDelay (s.reg x)) := rfl

theorem exec_ldStV : exec (.ldStV x) s = .next (s.setSound (s.reg x)) := rfl

end

/-! ### FX0A, case by case (R204) -/

section
variable {s : State} (x : RegIdx)

theorem exec_ldVK_of_no_key (hnone : s.keys = 0) : exec (.ldVK x) s = .next s.rewind := by
  have hsearch : s.lowestKey = none := s.lowestKey_eq_none.2 hnone
  simp only [exec, execLdVK, hsearch]

theorem exec_ldVK_of_lowest_key {k : Nat} (hk : k < 16) (hheld : s.keyHeld k = true)
    (hlowest : ∀ j, j < k → s.keyHeld j = false) :
    exec (.ldVK x) s = .next (s.setReg x (BitVec.ofNat 8 k)) := by
  have hsearch : s.lowestKey = some k := (s.lowestKey_eq_some k).2 ⟨hk, hheld, hlowest⟩
  simp only [exec, execLdVK, hsearch]

end

/-! ### The statements -/

/-- Settles O40: the two answers of FX0A's key search. -/
theorem keyWaitRewindsOrStoresLowestKey : Obligations.KeyWaitRewindsOrStoresLowestKey := by
  intro s x
  constructor
  · intro hnone
    exact exec_ldVK_of_no_key x hnone
  · intro k hk hheld hlowest
    exact ⟨_, exec_ldVK_of_lowest_key x hk hheld hlowest, setReg_onlyReg s x (BitVec.ofNat 8 k)⟩

/-- Settles O38: CXNN is one register write. -/
theorem randomByteIsMasked : Obligations.RandomByteIsMasked := fun s x nn =>
  ⟨_, exec_rnd s x nn, setReg_onlyReg s x (s.rand8 &&& nn)⟩

/-- Settles O42: FX07 is one register write, FX15 and FX18 each one write of a timer. -/
theorem timerMovesReadAndWriteTheTimers : Obligations.TimerMovesReadAndWriteTheTimers := fun s x =>
  ⟨⟨_, exec_ldVDt s x, setReg_onlyReg s x s.dt⟩, exec_ldDtV s x, exec_ldStV s x⟩

end Sys2Proof
end

section
/-! PROOFS. The fault of an unknown word (60_exceptions.md R222, 40_fetch_decode.md R106): decode comes after the advance
of `pc` and before execute. -/

namespace Sys2Proof

open Sys2Proof.Machine Sys2Proof.Statements

/-- Zeroed memory holds a word of no row: group 0 has 00E0 and 00EE only (R86). -/
theorem decodeWord_zero : decodeWord 0x0000 = none := by decide

/-- A fault taken after the advance keeps the new `pc`; the advance's `Ok(0)` gives way to the fault (R226). -/
theorem advance_raise_eq_haltedWith (s : State) (cause : FaultCause) (iw : Option Word) (faultPc : Word)
    (addr : Option Nat) :
    s.advance.raise cause iw faultPc addr = haltedWith { s with pc := s.pc + 2 } cause iw faultPc addr := rfl

/-- A fetched word of no row ends the step at decode, after the advance (R106, D11). -/
theorem runStep_of_unknown_word {s : State} {iw : Word} (hfetch : s.fetch = some iw) (hunknown : decodeWord iw = none) :
    runStep s = .next (haltedWith { s with pc := s.pc + 2 } .unknownInstruction (some iw) s.pc none) := by
  rw [← advance_raise_eq_haltedWith]
  simp only [runStep, hfetch, hunknown]

/-- Settles O10: the word of zeroed memory is unknown, and an unknown word halts the `Step` event's sampled state at
decode. -/
theorem unknownWordHaltsAfterTheAdvance : Obligations.UnknownWordHaltsAfterTheAdvance := by
  refine ⟨decodeWord_zero, fun s keys rand8 iw hrun hfetch hunknown => ?_⟩
  rw [stepEvent_of_running keys rand8 hrun]
  exact runStep_of_unknown_word ((sample_fetch s keys rand8).trans hfetch) hunknown

end Sys2Proof
end

section
/-! PROOFS. The decoder and the encoder (30_encoding.md): what a row's mask says of a word's fields, and that decode and
encode invert each other. -/

namespace Sys2Proof

open Sys2Proof.Machine

/-! ### The decoder on a word of a known row (R84, R85) -/

/-- The operands of `j` replaced by the fields of a word. -/
def Instr.withOperands (f : Fields) : Instr → Instr
  | .cls        => .cls
  | .ret        => .ret
  | .jp _       => .jp f.nnn
  | .call _     => .call f.nnn
  | .seImm _ _  => .seImm f.x f.nn
  | .sneImm _ _ => .sneImm f.x f.nn
  | .seReg _ _  => .seReg f.x f.y
  | .ldImm _ _  => .ldImm f.x f.nn
  | .addImm _ _ => .addImm f.x f.nn
  | .ldReg _ _  => .ldReg f.x f.y
  | .orReg _ _  => .orReg f.x f.y
  | .andReg _ _ => .andReg f.x f.y
  | .xorReg _ _ => .xorReg f.x f.y
  | .addReg _ _ => .addReg f.x f.y
  | .sub _ _    => .sub f.x f.y
  | .shr _ _    => .shr f.x f.y
  | .subn _ _   => .subn f.x f.y
  | .shl _ _    => .shl f.x f.y
  | .sneReg _ _ => .sneReg f.x f.y
  | .ldI _      => .ldI f.nnn
  | .jpV _ _    => .jpV f.x f.nnn
  | .rnd _ _    => .rnd f.x f.nn
  | .drw _ _ _  => .drw f.x f.y f.n
  | .skp _      => .skp f.x
  | .sknp _     => .sknp f.x
  | .ldVDt _    => .ldVDt f.x
  | .ldVK _     => .ldVK f.x
  | .ldDtV _    => .ldDtV f.x
  | .ldStV _    => .ldStV f.x
  | .addI _     => .addI f.x
  | .ldF _      => .ldF f.x
  | .ldB _      => .ldB f.x
  | .ldMemV _   => .ldMemV f.x
  | .ldVMem _   => .ldVMem f.x

/-- Replacing operands does not leave the row. -/
@[simp] theorem row_withOperands (f : Fields) (j : Instr) : (j.withOperands f).row = j.row := by
  cases j <;> rfl

/-- Where a mask is all ones, a matching word has the bits of the match. -/
theorem extractLsb'_of_and_eq {iw mask bits : Word} {start len : Nat} (hmatch : iw &&& mask = bits)
    (hones : mask.extractLsb' start len = BitVec.allOnes len) :
    iw.extractLsb' start len = bits.extractLsb' start len := by
  rw [← hmatch, BitVec.extractLsb'_and, hones, BitVec.and_allOnes]

section
variable {iw bits : Word}

theorem op_of_and_F000 (hmatch : iw &&& 0xF000 = bits) : (fieldsOf iw).op = (fieldsOf bits).op :=
  extractLsb'_of_and_eq hmatch (by decide)

theorem selector_of_and_F00F (hmatch : iw &&& 0xF00F = bits) :
    (fieldsOf iw).op = (fieldsOf bits).op ∧ (fieldsOf iw).n = (fieldsOf bits).n :=
  ⟨extractLsb'_of_and_eq hmatch (by decide), extractLsb'_of_and_eq hmatch (by decide)⟩

theorem selector_of_and_F0FF (hmatch : iw &&& 0xF0FF = bits) :
    (fieldsOf iw).op = (fieldsOf bits).op ∧ (fieldsOf iw).nn = (fieldsOf bits).nn :=
  ⟨extractLsb'_of_and_eq hmatch (by decide), extractLsb'_of_and_eq hmatch (by decide)⟩

theorem selector_of_and_FFFF (hmatch : iw &&& 0xFFFF = bits) :
    (fieldsOf iw).op = (fieldsOf bits).op ∧ (fieldsOf iw).nnn = (fieldsOf bits).nnn :=
  ⟨extractLsb'_of_and_eq hmatch (by decide), extractLsb'_of_and_eq hmatch (by decide)⟩

end

theorem decodeWord_of_matches {iw : Word} {j : Instr} (hmatch : j.row.Matches iw) :
    decodeWord iw = some (j.withOperands (fieldsOf iw)) := by
  rw [decodeWord]
  cases j
  case cls | ret =>
    obtain ⟨hop, hnnn⟩ := selector_of_and_FFFF hmatch
    generalize fieldsOf iw = f at hop hnnn ⊢
    simp [decodeFields, decodeGroup0, hop, hnnn, Instr.row, fieldsOf, Instr.withOperands]
  case seReg | ldReg | orReg | andReg | xorReg | addReg | sub | shr | subn | shl | sneReg =>
    obtain ⟨hop, hn⟩ := selector_of_and_F00F hmatch
    generalize fieldsOf iw = f at hop hn ⊢
    simp [decodeFields, decodeGroup8, hop, hn, Instr.row, fieldsOf, Instr.withOperands]
  case skp | sknp | ldVDt | ldVK | ldDtV | ldStV | addI | ldF | ldB | ldMemV | ldVMem =>
    obtain ⟨hop, hnn⟩ := selector_of_and_F0FF hmatch
    generalize fieldsOf iw = f at hop hnn ⊢
    simp [decodeFields, decodeGroupE, decodeGroupF, hop, hnn, Instr.row, fieldsOf, Instr.withOperands]
  all_goals
    have hop := op_of_and_F000 hmatch
    generalize fieldsOf iw = f at hop ⊢
    simp [decodeFields, hop, Instr.row, fieldsOf, Instr.withOperands]

/-! ### The word of an instruction (R83, R85) -/

theorem row_matches_encode : ∀ i : Instr, i.row.Matches (encode i)
  | .cls => Laws.RowMatch.cls
  | .ret => Laws.RowMatch.ret
  | .jp nnn => Laws.RowMatch.jp nnn
  | .call nnn => Laws.RowMatch.call nnn
  | .seImm x nn => Laws.RowMatch.seImm x nn
  | .sneImm x nn => Laws.RowMatch.sneImm x nn
  | .seReg x y => Laws.RowMatch.seReg x y
  | .ldImm x nn => Laws.RowMatch.ldImm x nn
  | .addImm x nn => Laws.RowMatch.addImm x nn
  | .ldReg x y => Laws.RowMatch.ldReg x y
  | .orReg x y => Laws.RowMatch.orReg x y
  | .andReg x y => Laws.RowMatch.andReg x y
  | .xorReg x y => Laws.RowMatch.xorReg x y
  | .addReg x y => Laws.RowMatch.addReg x y
  | .sub x y => Laws.RowMatch.sub x y
  | .shr x y => Laws.RowMatch.shr x y
  | .subn x y => Laws.RowMatch.subn x y
  | .shl x y => Laws.RowMatch.shl x y
  | .sneReg x y => Laws.RowMatch.sneReg x y
  | .ldI nnn => Laws.RowMatch.ldI nnn
  | .jpV x nnn => Laws.RowMatch.jpV x nnn
  | .rnd x nn => Laws.RowMatch.rnd x nn
  | .drw x y n => Laws.RowMatch.drw x y n
  | .skp x => Laws.RowMatch.skp x
  | .sknp x => Laws.RowMatch.sknp x
  | .ldVDt x => Laws.RowMatch.ldVDt x
  | .ldVK x => Laws.RowMatch.ldVK x
  | .ldDtV x => Laws.RowMatch.ldDtV x
  | .ldStV x => Laws.RowMatch.ldStV x
  | .addI x => Laws.RowMatch.addI x
  | .ldF x => Laws.RowMatch.ldF x
  | .ldB x => Laws.RowMatch.ldB x
  | .ldMemV x => Laws.RowMatch.ldMemV x
  | .ldVMem x => Laws.RowMatch.ldVMem x

/-- A row's match and the operands together stay within 16 bits, so a word loses none of them. -/
theorem toNat_encode (i : Instr) : (encode i).toNat = i.row.bits.toNat + i.operandBits := by
  rw [encode, BitVec.toNat_ofNat, Nat.mod_eq_of_lt]
  cases i <;> simp only [Instr.row, Instr.operandBits, BitVec.reduceToNat] <;> omega

/-! ### Fields as numbers (R81) -/

section
variable (iw : Word)

theorem fieldsOf_op_eq_iff (d : BitVec 4) : (fieldsOf iw).op = d ↔ iw.toNat / 4096 = d.toNat := by
  rw [← BitVec.toNat_inj, fieldsOf_op_toNat]

theorem fieldsOf_x_eq_iff (x : RegIdx) : (fieldsOf iw).x = x ↔ iw.toNat / 256 % 16 = x.val := by
  rw [Fin.ext_iff, fieldsOf_x_val]

theorem fieldsOf_y_eq_iff (y : RegIdx) : (fieldsOf iw).y = y ↔ iw.toNat / 16 % 16 = y.val := by
  rw [Fin.ext_iff, fieldsOf_y_val]

theorem fieldsOf_n_eq_iff (n : BitVec 4) : (fieldsOf iw).n = n ↔ iw.toNat % 16 = n.toNat := by
  rw [← BitVec.toNat_inj, fieldsOf_n_toNat]

theorem fieldsOf_nn_eq_iff (nn : BitVec 8) : (fieldsOf iw).nn = nn ↔ iw.toNat % 256 = nn.toNat := by
  rw [← BitVec.toNat_inj, fieldsOf_nn_toNat]

theorem fieldsOf_nnn_eq_iff (nnn : BitVec 12) : (fieldsOf iw).nnn = nnn ↔ iw.toNat % 4096 = nnn.toNat := by
  rw [← BitVec.toNat_inj, fieldsOf_nnn_toNat]

end

/-! ### Decode of encode -/

/-- The fields of an instruction's word are its operands; of BNNN's `x` this is what well-formedness says (R91). -/
theorem withOperands_encode {i : Instr} (hwf : i.wf = true) : i.withOperands (fieldsOf (encode i)) = i := by
  have hword := toNat_encode i
  generalize encode i = iw at hword ⊢
  cases i
  case cls | ret => rfl
  case jpV x nnn =>
    have hx : x = topDigit nnn := by simpa [Instr.wf] using hwf
    simp only [Instr.row, Instr.operandBits, BitVec.reduceToNat] at hword
    simp only [Instr.withOperands, hx, topDigit, Fin.ofNat, Instr.jpV.injEq, fieldsOf_x_eq_iff, fieldsOf_nnn_eq_iff]
    omega
  all_goals
    simp only [Instr.row, Instr.operandBits, BitVec.reduceToNat] at hword
    simp [Instr.withOperands, fieldsOf_x_eq_iff, fieldsOf_y_eq_iff, fieldsOf_n_eq_iff, fieldsOf_nn_eq_iff,
      fieldsOf_nnn_eq_iff]
    omega

theorem decodeWord_encode {i : Instr} (hwf : i.wf = true) : decodeWord (encode i) = some i := by
  rw [decodeWord_of_matches (row_matches_encode i), withOperands_encode hwf]

/-- The decoder on bytes decodes the word they join to. -/
theorem decode_wordBytes {iw : Word} {i : Instr} (hword : decodeWord iw = some i) (rest : List Byte) :
    decode (wordBytes iw ++ rest) = .ok (i, rest) := by
  simp only [wordBytes, List.cons_append, List.nil_append, decode, joinBytes_wordBytes, hword]

/-- Settles O3: an instruction's word matches the instruction's row, and its fields are the operands. -/
theorem decodeOfEncodeIsTheInstruction : Obligations.DecodeOfEncodeIsTheInstruction := fun _ rest hwf =>
  decode_wordBytes (decodeWord_encode hwf) rest

/-! ### Encode of decode, group by group (R84, R90) -/

/-- `i` is well-formed and its row's match and operands add up to `iw`. -/
def Encodes (i : Instr) (iw : Word) : Prop := i.wf = true ∧ i.row.bits.toNat + i.operandBits = iw.toNat

theorem encodes_iff (i : Instr) (iw : Word) : Encodes i iw ↔ i.wf = true ∧ encode i = iw := by
  rw [Encodes, ← BitVec.toNat_inj, toNat_encode]

/-- R84's kinds of opcode group: four with a selector of their own, the two that ask for a zero low digit, BNNN's, and
the nine decoded by the opcode digit alone. -/
theorem opcodeGroup_cases {op : Nat} (hop : op < 16) :
    op = 0x0 ∨ op = 0x8 ∨ op = 0xE ∨ op = 0xF ∨ (op = 0x5 ∨ op = 0x9) ∨ op = 0xB ∨
      (op = 0x1 ∨ op = 0x2 ∨ op = 0x3 ∨ op = 0x4 ∨ op = 0x6 ∨ op = 0x7 ∨ op = 0xA ∨ op = 0xC ∨ op = 0xD) := by
  omega

section
variable {iw : Word} {i : Instr}

theorem decodeGroup0_encodes (hop : iw.toNat / 4096 = 0x0) (h : decodeGroup0 (fieldsOf iw) = some i) :
    Encodes i iw := by
  simp only [decodeGroup0, fieldsOf_nnn_eq_iff] at h
  split_ifs at h <;> cases h
  all_goals
    refine ⟨rfl, ?_⟩
    simp only [Instr.row, Instr.operandBits, BitVec.reduceToNat] at *
    omega

theorem decodeGroup8_encodes (hop : iw.toNat / 4096 = 0x8) (h : decodeGroup8 (fieldsOf iw) = some i) :
    Encodes i iw := by
  simp only [decodeGroup8, fieldsOf_n_eq_iff] at h
  split_ifs at h <;> cases h
  all_goals
    refine ⟨rfl, ?_⟩
    simp only [Instr.row, Instr.operandBits, BitVec.reduceToNat, fieldsOf_x_val, fieldsOf_y_val] at *
    omega

theorem decodeGroupE_encodes (hop : iw.toNat / 4096 = 0xE) (h : decodeGroupE (fieldsOf iw) = some i) :
    Encodes i iw := by
  simp only [decodeGroupE, fieldsOf_nn_eq_iff] at h
  split_ifs at h <;> cases h
  all_goals
    refine ⟨rfl, ?_⟩
    simp only [Instr.row, Instr.operandBits, BitVec.reduceToNat, fieldsOf_x_val] at *
    omega

theorem decodeGroupF_encodes (hop : iw.toNat / 4096 = 0xF) (h : decodeGroupF (fieldsOf iw) = some i) :
    Encodes i iw := by
  simp only [decodeGroupF, fieldsOf_nn_eq_iff] at h
  split_ifs at h <;> cases h
  all_goals
    refine ⟨rfl, ?_⟩
    simp only [Instr.row, Instr.operandBits, BitVec.reduceToNat, fieldsOf_x_val] at *
    omega

theorem decodeWord_encodes (h : decodeWord iw = some i) : Encodes i iw := by
  have hop : iw.toNat / 4096 < 16 := Nat.div_lt_of_lt_mul iw.isLt
  rw [decodeWord] at h
  simp only [decodeFields, fieldsOf_op_eq_iff] at h
  generalize hgroup : iw.toNat / 4096 = op at h hop
  obtain rfl | rfl | rfl | rfl | hlowDigit | rfl | hplain := opcodeGroup_cases hop
  · exact decodeGroup0_encodes hgroup h
  · exact decodeGroup8_encodes hgroup h
  · exact decodeGroupE_encodes hgroup h
  · exact decodeGroupF_encodes hgroup h
  · rcases hlowDigit with rfl | rfl
    all_goals
      obtain ⟨hn, rfl⟩ : iw.toNat % 16 = 0 ∧ _ = i := by simpa [fieldsOf_n_eq_iff] using h
      refine ⟨rfl, ?_⟩
      simp only [Instr.row, Instr.operandBits, BitVec.reduceToNat, fieldsOf_x_val, fieldsOf_y_val]
      omega
  · cases h
    have hdigit : (fieldsOf iw).x = topDigit (fieldsOf iw).nnn := by
      simp only [topDigit, Fin.ofNat, fieldsOf_x_eq_iff, fieldsOf_nnn_toNat]
      omega
    refine ⟨beq_iff_eq.2 hdigit, ?_⟩
    simp only [Instr.row, Instr.operandBits, BitVec.reduceToNat, fieldsOf_nnn_toNat]
    omega
  · rcases hplain with rfl | rfl | rfl | rfl | rfl | rfl | rfl | rfl | rfl
    all_goals
      cases h
      refine ⟨rfl, ?_⟩
      simp only [Instr.row, Instr.operandBits, BitVec.reduceToNat, fieldsOf_x_val, fieldsOf_y_val, fieldsOf_n_toNat,
        fieldsOf_nn_toNat, fieldsOf_nnn_toNat]
      omega

end

/-- Settles O4, from the fields of a word of each group. -/
theorem encodeOfDecodeIsTheWord : Obligations.EncodeOfDecodeIsTheWord := fun iw i hdecode =>
  (encodes_iff i iw).1 (decodeWord_encodes hdecode)

/-- Settles O5: a matching word decodes into the row, and a decoded word, being its instruction's own, matches the
instruction's row. -/
theorem wordIsOfARowExactlyWhenMaskMatches : Obligations.WordIsOfARowExactlyWhenMaskMatches := by
  intro iw j
  constructor
  · intro hmatch
    exact ⟨_, decodeWord_of_matches hmatch, row_withOperands (fieldsOf iw) j⟩
  · rintro ⟨i, hdecode, hrow⟩
    obtain ⟨-, rfl⟩ := encodeOfDecodeIsTheWord iw i hdecode
    exact hrow ▸ row_matches_encode i

/-! ### Words of no row (R86, R88) -/

section
variable (iw : Word)

theorem decodeGroup0_eq_none :
    decodeGroup0 (fieldsOf iw) = none ↔ iw.toNat % 4096 ≠ 0x0E0 ∧ iw.toNat % 4096 ≠ 0x0EE := by
  simp [decodeGroup0, fieldsOf_nnn_eq_iff, ite_eq_iff]

theorem decodeGroup8_eq_none :
    decodeGroup8 (fieldsOf iw) = none ↔ iw.toNat % 16 ∈ [0x8, 0x9, 0xA, 0xB, 0xC, 0xD, 0xF] := by
  have hn : iw.toNat % 16 < 16 := Nat.mod_lt _ (by decide)
  simp only [decodeGroup8, fieldsOf_n_eq_iff]
  generalize iw.toNat % 16 = n at hn ⊢
  interval_cases n <;> simp

theorem decodeGroupE_eq_none : decodeGroupE (fieldsOf iw) = none ↔ iw.toNat % 256 ∉ [0x9E, 0xA1] := by
  simp [decodeGroupE, fieldsOf_nn_eq_iff, ite_eq_iff]

theorem decodeGroupF_eq_none : decodeGroupF (fieldsOf iw) = none ↔
    iw.toNat % 256 ∉ [0x07, 0x0A, 0x15, 0x18, 0x1E, 0x29, 0x33, 0x55, 0x65] := by
  simp [decodeGroupF, fieldsOf_nn_eq_iff, ite_eq_iff]

end

/-- Settles O6, group by group: ten groups are wholly known. -/
theorem unknownWordsAreExactlyTheListed : Obligations.UnknownWordsAreExactlyTheListed := by
  intro iw
  have hop : iw.toNat / 4096 < 16 := Nat.div_lt_of_lt_mul iw.isLt
  have hlow : iw.toNat / 4096 = 0 → iw.toNat % 4096 = iw.toNat := by omega
  rw [decodeWord]
  simp only [decodeFields, fieldsOf_op_eq_iff]
  generalize iw.toNat / 4096 = op at hop hlow ⊢
  obtain rfl | rfl | rfl | rfl | hlowDigit | rfl | hplain := opcodeGroup_cases hop
  · simp [decodeGroup0_eq_none, hlow]
  · simp [decodeGroup8_eq_none]
  · simp [decodeGroupE_eq_none]
  · simp [decodeGroupF_eq_none]
  · rcases hlowDigit with rfl | rfl <;> simp [fieldsOf_n_eq_iff]
  · simp
  · rcases hplain with rfl | rfl | rfl | rfl | rfl | rfl | rfl | rfl | rfl <;> simp

/-- Settles O1, word by word. -/
theorem writtenWordsDecodeAsTheTableSays : Obligations.WrittenWordsDecodeAsTheTableSays := by
  unfold Obligations.WrittenWordsDecodeAsTheTableSays
  decide

end Sys2Proof
end

section
/-! PROOFS. The invariant of the machine (Safety.Inv): every reset state has it, each shared operation keeps it, and so
does every instruction, step and event; and a step of such a state always answers (10_state.md, 60_exceptions.md). -/

namespace Sys2Proof

open Sys2Proof.Machine Sys2Proof.Safety Sys2Proof.Statements

/-! ### Reset states (R35, R250) -/

theorem inv_resetWith {p : Config.Params} (hvalid : p.Valid) : Inv (State.resetWith p) where
  params_valid := hvalid
  mem_wf := rfl
  stack_length := List.length_replicate
  sp_le := Nat.zero_le _
  stack_bound := fun k _ hk => absurd hk (Nat.not_lt_zero k)
  pc_bound := (by decide : (0x0200 : Word).toNat ≤ 0x10FE)
  halted_iff := by simp [State.resetWith]
  fault_result := by simp [State.resetWith]
  running_result := by simp [State.resetWith]

theorem params_default_valid : Config.Params.default.Valid := by decide

/-- Settles O46: the fields of the reset state meet the invariant one by one. -/
theorem resetSatisfiesTheInvariant : Obligations.ResetSatisfiesTheInvariant :=
  ⟨fun _ hvalid => inv_resetWith hvalid, inv_resetWith params_default_valid⟩

/-! ### Shared operations -/

namespace Safety.Inv

variable {s : State} (h : Inv s)
include h

theorem fault_eq_none (hrun : s.halted = false) : s.fault = none := by
  have hiff := h.halted_iff
  simpa [hrun] using hiff

theorem exists_fault (hhalted : s.halted = true) : ∃ r, s.fault = some r ∧ s.result = some (.fault r) := by
  obtain ⟨r, hr⟩ := Option.isSome_iff_exists.1 (h.halted_iff.1 hhalted)
  exact ⟨r, hr, (h.fault_result r hr).1⟩

/-- Taking a fault whose record has the fields of its cause keeps the invariant (R226). -/
theorem raise {cause : FaultCause} {iw : Option Word} {faultPc : Word} {addr : Option Nat}
    (hshape : RecordShape ⟨cause, iw, faultPc, addr⟩) : Inv (s.raise cause iw faultPc addr) :=
  { h with
    halted_iff := by simp
    fault_result := by
      intro r hr
      obtain rfl := Option.some.inj hr
      exact ⟨rfl, hshape⟩
    running_result := by simp }

theorem setPc {w : Word} (hw : w.toNat ≤ 0x10FE) : Inv (s.setPc w) := { h with pc_bound := hw }

/-- A running machine's result may become any `Ok`. -/
theorem setDirty (hrun : s.halted = false) (d : Bool) : Inv (s.setDirty d) :=
  { h with
    fault_result := by simp [h.fault_eq_none hrun]
    running_result := by simp }

/-- Bytes stored within memory keep its canonical form. -/
theorem writeBytes {a : Nat} {bs : List Byte} (hfit : a + bs.length ≤ 4096) : Inv (s.writeBytes a bs) :=
  { h with mem_wf := Memory.wf_writeList _ bs s.mem a hfit h.mem_wf }

/-- A pushed entry is a `pc` of at most 4096, and the entries below it stay (R120). -/
theorem push {w : Word} (hcap : s.sp ≠ s.params.stackCapacity) (hw : w.toNat ≤ 4096) : Inv (s.push w) :=
  { h with
    stack_length := by rw [State.push_stack, List.length_set]; exact h.stack_length
    sp_le := Nat.lt_of_le_of_ne h.sp_le hcap
    stack_bound := by
      intro k v hk hv
      rw [State.push_stack, List.getElem?_set] at hv
      rcases Nat.lt_succ_iff_lt_or_eq.1 hk with hlt | rfl
      · exact h.stack_bound k v hlt (by simpa [hlt.ne'] using hv)
      · obtain ⟨-, rfl⟩ : _ ∧ w = v := by simpa using hv
        exact hw }

/-- A popped entry was in use, so it is a `pc` of at most 4096. -/
theorem popTo {w : Word} (hsp : s.sp ≠ 0) (hw : s.stack[s.sp - 1]? = some w) : Inv (s.popTo w) :=
  { h with
    sp_le := (Nat.sub_le _ _).trans h.sp_le
    stack_bound := fun k v hk hv => h.stack_bound k v (hk.trans_le (Nat.sub_le _ _)) hv
    pc_bound := (h.stack_bound _ w (Nat.sub_one_lt hsp) hw).trans (by decide) }

theorem sample (keys : BitVec 16) (rand8 : Byte) : Inv (s.sample keys rand8) := { h with }

theorem timerTick : Inv s.timerTick := by
  unfold State.timerTick
  split
  · exact h
  · exact { h with }

theorem beginTurn : Inv s.beginTurn := by
  unfold State.beginTurn State.dropTurn
  split <;> exact { h with }

/-- The advance of a fetch that was in bounds leaves `pc` between 2 and 4096. -/
theorem advance (hrun : s.halted = false) (hpc : s.pc.toNat ≤ 4094) :
    Inv s.advance ∧ 2 ≤ s.advance.pc.toNat ∧ s.advance.pc.toNat ≤ 4096 := by
  have hnext : (s.pc + 2).toNat = s.pc.toNat + 2 := by
    simp only [BitVec.toNat_add, BitVec.reduceToNat]
    omega
  have hlow : (s.pc + 2).toNat ≤ 0x10FE := by omega
  refine ⟨(h.setPc hlow).setDirty hrun false, ?_⟩
  simp only [State.advance_eq, State.setDirty_pc, State.setPc_pc]
  omega

end Safety.Inv

/-! ### Instructions, steps, events -/

/-- A fault of execute has a word, and an `addr` where R220 says. -/
theorem recordShape_raiseFrom {cause : FaultCause} {iw faultPc : Word} {addr : Option Nat}
    (hcause : cause ≠ .fetchOutOfBounds ∧ cause ≠ .unknownInstruction)
    (haddr : addr.isSome = true ↔ cause = .dataAccessOutOfBounds ∨ cause = .keyIndexOutOfRange) :
    RecordShape ⟨cause, some iw, faultPc, addr⟩ :=
  ⟨⟨nofun, fun hfetch => absurd hfetch hcause.1⟩, haddr⟩

/-- Every instruction keeps the invariant, run where the advance of a step leaves `pc`. -/
theorem exec_keeps_inv {i : Instr} {s t : State} (h : Inv s) (hrun : s.halted = false) (hlow : 2 ≤ s.pc.toNat)
    (hhigh : s.pc.toNat ≤ 4096) (hexec : exec i s = .next t) : Inv t := by
  cases exec_effect hexec with
  | fault c a hc ha => exact h.raise (recordShape_raiseFrom hc ha)
  | regs v => exact { h with }
  | regsIndex v w x hi => exact { h with }
  | index w hi => exact { h with }
  | branch w hw =>
    refine h.setPc ?_
    rcases hw with rfl | rfl | rfl | hw
    · exact h.pc_bound
    · simp only [BitVec.toNat_add, BitVec.reduceToNat]
      omega
    · simp only [BitVec.toNat_sub, BitVec.reduceToNat]
      omega
    · exact hw
  | call nnn hi hcap hlen => exact (h.push hcap hhigh).setPc (by rw [zextNnn_toNat]; omega)
  | ret w hi hsp hw => exact h.popTo hsp hw
  | delay b x hi => exact { h with }
  | sound b x hi => exact { h with }
  | clear hi => exact Inv.setDirty (s := { s with fb := Framebuffer.blank }) { h with } hrun true
  | draw v f x y n hi => exact Inv.setDirty (s := { s with v := v, fb := f }) { h with } hrun true
  | store a bs ha hi => exact h.writeBytes ha

theorem runStep_keeps_inv {s t : State} (h : Inv s) (hrun : s.halted = false) (hstep : runStep s = .next t) :
    Inv t := by
  rcases runStep_cases hstep with ⟨-, rfl⟩ | ⟨hpc, -, rfl⟩ | ⟨i, hpc, -, hexec⟩
  · exact h.raise ⟨by simp, by simp⟩
  · exact (h.advance hrun hpc).1.raise ⟨by simp, by simp⟩
  · obtain ⟨hadv, hlow, hhigh⟩ := h.advance hrun hpc
    exact exec_keeps_inv hadv hrun hlow hhigh hexec

/-- Returning the recorded fault again changes nothing, since it is what the last step returned (R108). -/
theorem haltedStep_eq_next {s : State} (h : Inv s) (hhalted : s.halted = true) : s.haltedStep = .next s := by
  unfold State.haltedStep
  split
  next r hfault => rw [← (h.fault_result r hfault).1]
  next hnone =>
    obtain ⟨r, hfault, -⟩ := h.exists_fault hhalted
    exact absurd (hnone.symm.trans hfault) nofun

theorem step_of_halted {s : State} (h : Inv s) (hhalted : s.halted = true) : step s = .next s := by
  rw [step, if_pos hhalted, haltedStep_eq_next h hhalted]

theorem stepEvent_of_halted {s : State} (h : Inv s) (hhalted : s.halted = true) (keys : BitVec 16) (rand8 : Byte) :
    stepEvent keys rand8 s = .next s := by
  rw [stepEvent, if_pos hhalted, haltedStep_eq_next h hhalted]

theorem step_of_running {s : State} (hrun : s.halted = false) : step s = runStep s.beginTurn := by
  simp [step, hrun]

/-- Settles O47: a halted machine stays as it is, and a running one keeps the invariant through its turn. -/
theorem stepKeepsTheInvariant : Obligations.StepKeepsTheInvariant := by
  intro s t h hstep
  cases hhalted : s.halted with
  | false =>
    rw [step_of_running hhalted] at hstep
    exact runStep_keeps_inv h.beginTurn (s.beginTurn_halted.trans hhalted) hstep
  | true =>
    rw [step_of_halted h hhalted] at hstep
    cases hstep
    exact h

theorem event_reset {s : State} {image : List Byte} (hlen : image.length ≤ 3584) : event (.reset image) s =
    .next { (State.resetWith s.params).writeBytes 0x200 image with schedule := s.schedule, draws := s.draws } := by
  simp only [event, State.resetEvent, loadImage, if_pos hlen]

theorem event_reset_of_long {s : State} {image : List Byte} (hlen : 3584 < image.length) :
    event (.reset image) s = .refused .imageTooLong := by
  simp only [event, State.resetEvent, loadImage, if_neg (Nat.not_le.2 hlen)]

/-- Settles O45: the loader refuses the image before anything is written. -/
theorem longImageIsRefused : Obligations.LongImageIsRefused := fun _ _ hlen => event_reset_of_long hlen

/-- Settles O48, event by event. -/
theorem everyEventKeepsTheInvariant : Obligations.EveryEventKeepsTheInvariant := by
  intro e s t h hevent
  cases e with
  | reset image =>
    rcases Nat.lt_or_ge 3584 image.length with hlong | hfit
    · rw [event_reset_of_long hlong] at hevent
      cases hevent
    · rw [event_reset hfit] at hevent
      cases hevent
      have hloaded : Inv ((State.resetWith s.params).writeBytes 0x200 image) :=
        (inv_resetWith h.params_valid).writeBytes (by omega)
      exact { hloaded with }
  | step keys rand8 =>
    cases hhalted : s.halted with
    | false =>
      rw [event, stepEvent_of_running keys rand8 hhalted] at hevent
      exact runStep_keeps_inv (h.sample keys rand8) hhalted hevent
    | true =>
      cases (stepEvent_of_halted h hhalted keys rand8).symm.trans hevent
      exact h
  | timerTick =>
    cases hevent
    exact h.timerTick

/-! ### Progress and runs (R107, R227) -/

theorem runStep_next {s : State} (h : Inv s) : ∃ t, runStep s = .next t := by
  unfold runStep
  split
  · exact ⟨_, rfl⟩
  · split
    · exact ⟨_, rfl⟩
    · exact exec_next _ s.advance h.stack_length h.sp_le

theorem step_next {s : State} (h : Inv s) : ∃ t, step s = .next t := by
  cases hhalted : s.halted with
  | false => exact step_of_running hhalted ▸ runStep_next h.beginTurn
  | true => exact ⟨s, step_of_halted h hhalted⟩

theorem run_succ_of_step {s t : State} (n : Nat) (hstep : step s = .next t) :
    core.run (n + 1) s = core.run n t := by
  have hcore : core.step s = .next t := hstep
  simp only [Host.Core.run, hcore]

/-- Runs of any length answer, in a state that has the invariant. -/
theorem run_next {s : State} (n : Nat) (h : Inv s) : ∃ t : State, core.run n s = .next t ∧ Inv t := by
  induction n generalizing s with
  | zero => exact ⟨s, rfl, h⟩
  | succ n ih =>
    obtain ⟨u, hstep⟩ := step_next h
    obtain ⟨t, hrun, ht⟩ := ih (stepKeepsTheInvariant s u h hstep)
    exact ⟨t, (run_succ_of_step n hstep).trans hrun, ht⟩

theorem run_of_halted {s : State} (n : Nat) (h : Inv s) (hhalted : s.halted = true) : core.run n s = .next s := by
  induction n with
  | zero => rfl
  | succ n ih => exact (run_succ_of_step n (step_of_halted h hhalted)).trans ih

/-- Settles O49: a run answers in a state that has the invariant, running or halted for good. -/
theorem runsSafelyOrStaysHalted : Obligations.RunsSafelyOrStaysHalted := by
  intro n s h
  obtain ⟨t, hrun, ht⟩ := run_next n h
  refine ⟨t, hrun, ht, ?_⟩
  cases hhalted : t.halted with
  | false => exact .inl ⟨hrun, hhalted⟩
  | true => exact .inr ⟨rfl, fun m => run_of_halted m ht hhalted⟩

end Sys2Proof
end

section
/-! PROOFS. What an instruction leaves alone (10_state.md R21, R31, R32, R37): which parts of the state it writes, when
VF changes, and which inputs it does not read. -/

namespace Sys2Proof

open Sys2Proof.Machine Sys2Proof.Safety Sys2Proof.Statements

/-! ### The checked accesses and key tests answer with a fault or with their effect (R61, R201, R202) -/

section
variable {s t : State} {x : RegIdx}

theorem exec_ret_cases (h : exec .ret s = .next t) :
    (s.sp = 0 ∧ t = s.raiseFrom .ret .stackUnderflow none) ∨
      ∃ w, s.sp ≠ 0 ∧ s.stack[s.sp - 1]? = some w ∧ t = s.popTo w := by
  simp only [exec, execRet] at h
  split at h
  · cases h
    exact .inl ⟨‹_›, rfl⟩
  · split at h <;> cases h
    exact .inr ⟨_, ‹_›, ‹_›, rfl⟩

theorem exec_call_cases {nnn : BitVec 12} (h : exec (.call nnn) s = .next t) :
    (s.sp = s.params.stackCapacity ∧ t = s.raiseFrom (.call nnn) .stackOverflow none) ∨
      (s.sp ≠ s.params.stackCapacity ∧ s.sp < s.stack.length ∧ t = (s.push s.pc).setPc (zextNnn nnn)) := by
  simp only [exec, execCall] at h
  split_ifs at h <;> cases h
  · exact .inl ⟨‹_›, rfl⟩
  · exact .inr ⟨‹_›, ‹_›, rfl⟩

theorem exec_drw_cases {y : RegIdx} {n : BitVec 4} (h : exec (.drw x y n) s = .next t) :
    (∃ a, t = s.raiseFrom (.drw x y n) .dataAccessOutOfBounds (some a)) ∨ t = s.drawSprite x y n.toNat := by
  simp only [exec, execDrw] at h
  split at h <;> cases h
  · exact .inl ⟨_, rfl⟩
  · exact .inr rfl

theorem exec_ldB_cases (h : exec (.ldB x) s = .next t) :
    (∃ a, t = s.raiseFrom (.ldB x) .dataAccessOutOfBounds (some a)) ∨
      t = s.writeBytes s.i.toNat (decimalDigits (s.reg x)) := by
  simp only [exec, execLdB] at h
  split at h <;> cases h
  · exact .inl ⟨_, rfl⟩
  · exact .inr rfl

theorem exec_ldMemV_cases (h : exec (.ldMemV x) s = .next t) :
    (∃ a, t = s.raiseFrom (.ldMemV x) .dataAccessOutOfBounds (some a)) ∨ t = s.writeBytes s.i.toNat (s.regRun x) := by
  simp only [exec, execLdMemV] at h
  split at h <;> cases h
  · exact .inl ⟨_, rfl⟩
  · exact .inr rfl

theorem exec_ldVMem_cases (h : exec (.ldVMem x) s = .next t) :
    (∃ a, t = s.raiseFrom (.ldVMem x) .dataAccessOutOfBounds (some a)) ∨ t = s.loadRun x := by
  simp only [exec, execLdVMem] at h
  split at h <;> cases h
  · exact .inl ⟨_, rfl⟩
  · exact .inr rfl

theorem exec_skp_of_key (hkey : (s.reg x).toNat ≤ 15) :
    exec (.skp x) s = .next (s.skipIf (s.keyHeld (s.reg x).toNat)) := by
  simp only [exec, execSkp, if_neg (Nat.not_lt.2 hkey)]

theorem exec_skp_of_past (hpast : 15 < (s.reg x).toNat) :
    exec (.skp x) s = .next (s.raiseFrom (.skp x) .keyIndexOutOfRange (some (s.reg x).toNat)) := by
  simp only [exec, execSkp, if_pos hpast]

theorem exec_sknp_of_key (hkey : (s.reg x).toNat ≤ 15) :
    exec (.sknp x) s = .next (s.skipIf (!s.keyHeld (s.reg x).toNat)) := by
  simp only [exec, execSknp, if_neg (Nat.not_lt.2 hkey)]

theorem exec_sknp_of_past (hpast : 15 < (s.reg x).toNat) :
    exec (.sknp x) s = .next (s.raiseFrom (.sknp x) .keyIndexOutOfRange (some (s.reg x).toNat)) := by
  simp only [exec, execSknp, if_pos hpast]

theorem exec_skp_cases (h : exec (.skp x) s = .next t) :
    (15 < (s.reg x).toNat ∧ t = s.raiseFrom (.skp x) .keyIndexOutOfRange (some (s.reg x).toNat)) ∨
      ((s.reg x).toNat ≤ 15 ∧ t = s.skipIf (s.keyHeld (s.reg x).toNat)) := by
  rcases Nat.lt_or_ge 15 (s.reg x).toNat with hpast | hkey
  · cases (exec_skp_of_past hpast).symm.trans h
    exact .inl ⟨hpast, rfl⟩
  · cases (exec_skp_of_key hkey).symm.trans h
    exact .inr ⟨hkey, rfl⟩

theorem exec_sknp_cases (h : exec (.sknp x) s = .next t) :
    (15 < (s.reg x).toNat ∧ t = s.raiseFrom (.sknp x) .keyIndexOutOfRange (some (s.reg x).toNat)) ∨
      ((s.reg x).toNat ≤ 15 ∧ t = s.skipIf (!s.keyHeld (s.reg x).toNat)) := by
  rcases Nat.lt_or_ge 15 (s.reg x).toNat with hpast | hkey
  · cases (exec_sknp_of_past hpast).symm.trans h
    exact .inl ⟨hpast, rfl⟩
  · cases (exec_sknp_of_key hkey).symm.trans h
    exact .inr ⟨hkey, rfl⟩

theorem exists_lowestKey (hkeys : s.keys ≠ 0) : ∃ k, s.lowestKey = some k :=
  Option.ne_none_iff_exists'.1 fun hnone => hkeys (s.lowestKey_eq_none.1 hnone)

theorem exec_ldVK_cases (h : exec (.ldVK x) s = .next t) :
    (s.keys = 0 ∧ t = s.rewind) ∨ ∃ k, s.keys ≠ 0 ∧ s.lowestKey = some k ∧ t = s.setReg x (BitVec.ofNat 8 k) := by
  by_cases hkeys : s.keys = 0
  · cases (exec_ldVK_of_no_key x hkeys).symm.trans h
    exact .inl ⟨hkeys, rfl⟩
  · obtain ⟨k, hlowest⟩ := exists_lowestKey hkeys
    obtain ⟨hk, hheld, hmin⟩ := (s.lowestKey_eq_some k).1 hlowest
    cases (exec_ldVK_of_lowest_key x hk hheld hmin).symm.trans h
    exact .inr ⟨k, hkeys, hlowest, rfl⟩

end

/-! ### Who writes the registers and `pc` (R37) -/

@[simp] theorem skipIf_v (s : State) (c : Bool) : (s.skipIf c).v = s.v := by
  rw [skipIf_eq_setPc, State.setPc_v]

theorem exec_v_eq {i : Instr} {s t : State} (hexec : exec i s = .next t) (hi : ¬ WritesReg i) : t.v = s.v := by
  cases i
  case cls | jp | jpV | ldI | ldDtV | ldStV | ldF => cases hexec; rfl
  case seImm | sneImm | seReg | sneReg => cases hexec; exact skipIf_v s _
  case ret => rcases exec_ret_cases hexec with ⟨-, rfl⟩ | ⟨w, -, -, rfl⟩ <;> rfl
  case call => rcases exec_call_cases hexec with ⟨-, rfl⟩ | ⟨-, -, rfl⟩ <;> rfl
  case skp => rcases exec_skp_cases hexec with ⟨-, rfl⟩ | ⟨-, rfl⟩ <;> simp
  case sknp => rcases exec_sknp_cases hexec with ⟨-, rfl⟩ | ⟨-, rfl⟩ <;> simp
  case ldB => rcases exec_ldB_cases hexec with ⟨a, rfl⟩ | rfl <;> rfl
  case ldMemV => rcases exec_ldMemV_cases hexec with ⟨a, rfl⟩ | rfl <;> rfl
  all_goals exact absurd trivial hi

theorem exec_pc_eq {i : Instr} {s t : State} (hexec : exec i s = .next t) (hi : ¬ WritesPc i) : t.pc = s.pc := by
  cases i
  case drw => rcases exec_drw_cases hexec with ⟨a, rfl⟩ | rfl <;> rfl
  case ldB => rcases exec_ldB_cases hexec with ⟨a, rfl⟩ | rfl <;> rfl
  case ldMemV => rcases exec_ldMemV_cases hexec with ⟨a, rfl⟩ | rfl <;> rfl
  case ldVMem => rcases exec_ldVMem_cases hexec with ⟨a, rfl⟩ | rfl <;> rfl
  case ret | jp | call | seImm | sneImm | seReg | sneReg | jpV | skp | sknp | ldVK => exact absurd trivial hi
  all_goals cases hexec; rfl

/-- Settles O50: registers and `pc` instruction by instruction, every other part by the effect an instruction has. -/
theorem eachPartIsWrittenOnlyByItsInstructions : Obligations.EachPartIsWrittenOnlyByItsInstructions := by
  intro i s t hexec
  have hv : t.v ≠ s.v → WritesReg i := fun hne => by_contra fun hi => hne (exec_v_eq hexec hi)
  have hpc : t.pc ≠ s.pc → WritesPc i := fun hne => by_contra fun hi => hne (exec_pc_eq hexec hi)
  refine ⟨hv, hpc, ?_⟩
  cases exec_effect hexec with
  | fault c a hc ha => simp
  | regs v => simp
  | regsIndex v w x hi => simp [hi]
  | index w hi => rcases hi with ⟨nnn, rfl⟩ | ⟨x, rfl⟩ <;> simp
  | branch w hw => simp
  | call nnn hi hcap hlen => simp [hi]
  | ret w hi hsp hw => simp [hi]
  | delay b x hi => simp [hi]
  | sound b x hi => simp [hi]
  | clear hi => simp [hi]
  | draw v f x y n hi => simp [hi]
  | store a bs ha hi => rcases hi with ⟨x, rfl⟩ | ⟨x, rfl⟩ <;> simp

/-! ### When VF changes (R21) -/

/-- A register write changes VF only where it is the destination. -/
theorem eq_of_setReg_reg_ne {s : State} {x k : RegIdx} {b : Byte} (hne : (s.setReg x b).reg k ≠ s.reg k) : x = k :=
  by_contra fun hx => hne (by rw [State.reg_setReg, if_neg hx])

/-- Settles O51: VF is a register, so only a register writer changes it; the writers of no flag write their destination
alone. -/
theorem vFChangesOnlyAsFlagOrNamedDestination : Obligations.VFChangesOnlyAsFlagOrNamedDestination := by
  intro i s t hexec hne
  by_cases hwrites : WritesReg i
  swap
  · exact absurd (congrArg (·[15]) (exec_v_eq hexec hwrites)) hne
  cases i
  case ldImm | addImm | ldReg | orReg | andReg | xorReg | rnd | ldVDt =>
    cases hexec
    exact .inr (eq_of_setReg_reg_ne hne)
  case ldVK =>
    rcases exec_ldVK_cases hexec with ⟨-, rfl⟩ | ⟨k, -, -, rfl⟩
    · exact absurd rfl hne
    · exact .inr (eq_of_setReg_reg_ne hne)
  case ldVMem x =>
    rcases exec_ldVMem_cases hexec with ⟨a, rfl⟩ | rfl
    · exact absurd rfl hne
    · refine .inr (Fin.le_antisymm (Fin.le_last x) (Nat.not_lt.1 fun hx => hne ?_))
      rw [State.reg_loadRun, if_neg (Nat.not_le.2 hx)]
  case addReg | sub | subn | shr | shl | addI | drw => exact .inl trivial
  all_goals exact absurd hwrites id

/-! ### Inputs (R31, R32) -/

section
variable (s : State) (keys : BitVec 16) (rand8 : Byte)

@[simp] theorem sample_dataFault (n : Nat) : (s.sample keys rand8).dataFault n = s.dataFault n := rfl

@[simp] theorem sample_lowestKey : (s.sample s.keys rand8).lowestKey = s.lowestKey := rfl

theorem sample_skipIf (c : Bool) : (s.sample keys rand8).skipIf c = (s.skipIf c).sample keys rand8 := by
  cases c <;> rfl

end

theorem sample_keys_eq {t : State} {keys : BitVec 16} {rand8 : Byte} (hsame : rand8 = t.rand8) :
    t.sample keys rand8 = { t with keys := keys } := by
  rw [hsame]; rfl

theorem sample_rand8_eq {t : State} {keys : BitVec 16} {rand8 : Byte} (hsame : keys = t.keys) :
    t.sample keys rand8 = { t with rand8 := rand8 } := by
  rw [hsame]; rfl

/-- Run with other inputs, an instruction that does not read them does the same. -/
theorem exec_sample {i : Instr} {s t : State} {keys : BitVec 16} {rand8 : Byte} (hexec : exec i s = .next t)
    (hkeys : ReadsKeys i → keys = s.keys) (hrand : ∀ x nn, i = .rnd x nn → rand8 = s.rand8) :
    exec i (s.sample keys rand8) = .next (t.sample keys rand8) := by
  cases i
  case rnd x nn =>
    cases hexec
    rw [hrand x nn rfl]
    rfl
  case seImm | sneImm | seReg | sneReg =>
    cases hexec
    exact congrArg _ (sample_skipIf s keys rand8 _)
  case ret =>
    rcases exec_ret_cases hexec with ⟨hempty, rfl⟩ | ⟨w, hsp, hentry, rfl⟩
    · exact exec_ret_of_empty (s := s.sample keys rand8) hempty
    · exact exec_ret_of_entry (s := s.sample keys rand8) hsp hentry
  case call nnn =>
    rcases exec_call_cases hexec with ⟨hfull, rfl⟩ | ⟨hcap, hslot, rfl⟩
    · exact exec_call_of_full (s := s.sample keys rand8) nnn hfull
    · exact exec_call_of_room (s := s.sample keys rand8) nnn hcap hslot
  case drw | ldB | ldMemV | ldVMem =>
    simp only [exec, execDrw, execLdB, execLdMemV, execLdVMem, sample_dataFault] at hexec ⊢
    split at hexec <;> cases hexec <;> rfl
  case skp x =>
    obtain rfl := hkeys trivial
    rcases exec_skp_cases hexec with ⟨hpast, rfl⟩ | ⟨hkey, rfl⟩
    · exact exec_skp_of_past (s := s.sample s.keys rand8) hpast
    · rw [← sample_skipIf]
      exact exec_skp_of_key (s := s.sample s.keys rand8) hkey
  case sknp x =>
    obtain rfl := hkeys trivial
    rcases exec_sknp_cases hexec with ⟨hpast, rfl⟩ | ⟨hkey, rfl⟩
    · exact exec_sknp_of_past (s := s.sample s.keys rand8) hpast
    · rw [← sample_skipIf]
      exact exec_sknp_of_key (s := s.sample s.keys rand8) hkey
  case ldVK =>
    obtain rfl := hkeys trivial
    cases hexec
    simp only [exec, execLdVK, sample_lowestKey]
    split <;> rfl
  all_goals cases hexec; rfl

/-- Settles O52: keys and random byte are replaced one at a time, the other left as sampled. -/
theorem inputsAreReadOnlyWhereStated : Obligations.InputsAreReadOnlyWhereStated := by
  intro i s t keys rand8 hexec
  obtain ⟨-, -, -, -, -, -, -, -, -, -, hkeys, hrand, -⟩ := eachPartIsWrittenOnlyByItsInstructions i s t hexec
  constructor
  · intro hi
    have hsame := exec_sample (keys := keys) (rand8 := s.rand8) hexec (fun hreads => absurd hreads hi) fun _ _ _ => rfl
    exact hsame.trans (congrArg Host.Outcome.next (sample_keys_eq hrand.symm))
  · intro hi
    have hsame := exec_sample (keys := s.keys) (rand8 := rand8) hexec (fun _ => rfl)
      fun x nn hrnd => absurd hrnd (hi x nn)
    exact hsame.trans (congrArg Host.Outcome.next (sample_rand8_eq hkeys.symm))

end Sys2Proof
end

section
/-! PROOFS. The step (40_fetch_decode.md, 60_exceptions.md): its turn, what it returns, the next `pc`, and its
faults. -/

namespace Sys2Proof

open Sys2Proof.Machine Sys2Proof.Safety Sys2Proof.Statements

/-! ### A step of a fetched instruction (R100 to R102) -/

theorem decodeWord_of_decode {hi lo : Byte} {i : Instr} {rest : List Byte}
    (hdecode : decode (hi :: lo :: rest) = .ok (i, rest)) : decodeWord (joinBytes hi lo) = some i := by
  rw [decode] at hdecode
  split at hdecode <;> cases hdecode
  assumption

@[simp] theorem beginTurn_wordAtPc (s : State) : s.beginTurn.wordAtPc = s.wordAtPc := by
  simp only [State.wordAtPc, State.readByte, State.beginTurn_mem, State.beginTurn_params, State.beginTurn_pc]

/-- Settles O7: the bytes at `pc` join to the fetched word, which a turn's beginning does not move. -/
theorem stepRunsTheDecodedInstruction : Obligations.StepRunsTheDecodedInstruction := by
  intro s i hrun hpc hdecode
  refine ⟨?_, s.beginTurn_pc, s.beginTurn_mem⟩
  have hword : decodeWord s.beginTurn.wordAtPc = some i := by
    rw [beginTurn_wordAtPc]
    exact decodeWord_of_decode hdecode
  rw [step_of_running hrun, runStep_decoded (by rwa [State.beginTurn_pc]) hword, ← s.beginTurn_pc]
  rfl

/-- A `Step` event of a running machine that fetches `i` runs it on the sampled and advanced state. -/
theorem stepEvent_of_decoded {s : State} {i : Instr} (keys : BitVec 16) (rand8 : Byte) (hrun : s.halted = false)
    (hpc : s.pc.toNat ≤ 4094) (hdecode : decodeWord s.wordAtPc = some i) :
    stepEvent keys rand8 s = exec i (s.sample keys rand8).advance :=
  (stepEvent_of_running keys rand8 hrun).trans (runStep_decoded hpc hdecode)

/-! ### Ticks of a turn (R110, R236) -/

theorem timerTick_of_running {s : State} (hrun : s.halted = false) : s.timerTick = s.runTicks 1 := by
  exact if_neg (by simp [hrun])

/-- The ticks of a running machine one by one are the ticks in a row. -/
theorem timerTick_iterate {s : State} (n : Nat) (hrun : s.halted = false) : State.timerTick^[n] s = s.runTicks n := by
  induction n generalizing s with
  | zero => rfl
  | succ n ih =>
    rw [Function.iterate_succ_apply, timerTick_of_running hrun, ih (s := s.runTicks 1) hrun]
    rfl

/-- Settles O8: the turn's ticks are `TimerTick` events one by one, after which its `Step` event samples and runs. -/
theorem turnIsItsTicksThenOneStepEvent : Obligations.TurnIsItsTicksThenOneStepEvent := by
  intro s hrun
  have hdrop : s.dropTurn.halted = false := s.dropTurn_halted.trans hrun
  rw [step_of_running hrun, timerTick_iterate s.nextTurn.ticks hdrop]
  exact (stepEvent_of_running (s := s.dropTurn.runTicks s.nextTurn.ticks) _ _ hdrop).symm

/-! ### The halted machine and states outside the hardware (R33, R108, R227) -/

/-- Settles O11: a halted machine's step returns its record again, and its tick is no tick. -/
theorem haltedMachineChangesNothing : Obligations.HaltedMachineChangesNothing := fun _ keys rand8 h hhalted =>
  ⟨step_of_halted h hhalted, stepEvent_of_halted h hhalted keys rand8, if_pos hhalted, h.exists_fault hhalted⟩

/-- Settles O21: the two accesses to an absent stack entry, and the halted step without a record. -/
theorem statesOutsideTheHardwareStop : Obligations.StatesOutsideTheHardwareStop := by
  intro s nnn
  refine ⟨fun hsp hentry => ?_, fun hcap hslot => ?_, fun hhalted hfault => ?_⟩
  · simp only [exec, execRet, if_neg hsp, hentry]
  · simp only [exec, execCall, if_neg hcap, if_neg (Nat.not_lt.2 hslot)]
  · simp only [step, if_pos hhalted, State.haltedStep, hfault]

/-! ### What a step returns (R34, R107) -/

/-- 00E0 and DXYN, the instructions that mark dirty (D24). -/
def MarksDirty (i : Instr) : Prop := i = .cls ∨ ∃ x y n, i = .drw x y n

section
variable {i : Instr} {s t : State}

theorem exec_result_of_marksDirty (hi : MarksDirty i) (hexec : exec i s = .next t) (hrun : t.halted = false) :
    t.result = some (.ok true) := by
  rcases hi with rfl | ⟨x, y, n, rfl⟩
  · cases hexec; rfl
  · rcases exec_drw_cases hexec with ⟨a, rfl⟩ | rfl
    · exact absurd hrun nofun
    · rfl

theorem exec_result_of_not_marksDirty (hi : ¬ MarksDirty i) (hexec : exec i s = .next t) (hrun : t.halted = false) :
    t.result = s.result := by
  cases exec_effect hexec with
  | fault c a hc ha => exact absurd hrun nofun
  | clear hcls => exact absurd (.inl hcls) hi
  | draw v f x y n hdrw => exact absurd (.inr ⟨x, y, n, hdrw⟩) hi
  | _ => rfl

/-- An instruction that raised no fault returns `Ok`, marked dirty by 00E0 and DXYN alone. -/
theorem exec_advance_result (hexec : exec i s.advance = .next t) (hrun : t.halted = false) :
    (MarksDirty i ∧ t.result = some (.ok true)) ∨ (¬ MarksDirty i ∧ t.result = some (.ok false)) := by
  by_cases hi : MarksDirty i
  · exact .inl ⟨hi, exec_result_of_marksDirty hi hexec hrun⟩
  · exact .inr ⟨hi, exec_result_of_not_marksDirty hi hexec hrun⟩

theorem runStep_result (hstep : runStep s = .next t) (hrun : t.halted = false) : ∃ d, t.result = some (.ok d) := by
  rcases runStep_cases hstep with ⟨-, rfl⟩ | ⟨-, -, rfl⟩ | ⟨i, -, -, hexec⟩
  · exact absurd hrun nofun
  · exact absurd hrun nofun
  · rcases exec_advance_result hexec hrun with ⟨-, hresult⟩ | ⟨-, hresult⟩
    · exact ⟨_, hresult⟩
    · exact ⟨_, hresult⟩

end

/-- Settles O12: the next state has the invariant, so it returns its record where it is halted; where it runs, so did
the state before. -/
theorem stepAlwaysReturnsOkOrFault : Obligations.StepAlwaysReturnsOkOrFault := by
  intro s h
  obtain ⟨t, hstep⟩ := step_next h
  refine ⟨t, hstep, ?_⟩
  cases hhalted : t.halted with
  | true => exact .inr ⟨rfl, (stepKeepsTheInvariant s t h hstep).exists_fault hhalted⟩
  | false =>
    rcases step_cases hstep with ⟨hs, r, -, rfl⟩ | ⟨-, hrun⟩
    · exact absurd hhalted (by simp [hs])
    · exact .inl ⟨rfl, runStep_result hrun hhalted⟩

/-- Settles O13, from what the fetched instruction returns. -/
theorem dirtyExactlyForClearAndDraw : Obligations.DirtyExactlyForClearAndDraw := by
  intro s t keys rand8 i hrun hpc hdecode hstep hhalted
  rw [stepEvent_of_decoded keys rand8 hrun hpc hdecode] at hstep
  change (_ ↔ MarksDirty i) ∧ (_ ↔ ¬ MarksDirty i)
  rcases exec_advance_result hstep hhalted with ⟨hi, hresult⟩ | ⟨hi, hresult⟩ <;> simp [hi, hresult]

/-! ### The next `pc` (R103) -/

/-- A skip of the advanced state, by any reading `p` of its condition. -/
theorem skipIf_advance_pc (s : State) {c : Bool} {p : Prop} [Decidable p] (hc : c = true ↔ p) :
    (s.advance.skipIf c).pc = if p then s.pc + 4 else s.pc + 2 := by
  rw [skipIf_eq_setPc, State.setPc_pc]
  simp only [hc]
  split
  · exact BitVec.add_assoc s.pc 2 2
  · rfl

/-- The rewind undoes the advance. -/
theorem rewind_advance_pc (s : State) : s.advance.rewind.pc = s.pc := BitVec.add_sub_cancel s.pc 2

/-- Settles O14: the writers of `pc` one by one; every other instruction leaves it advanced. -/
theorem nextPcIsAsTabulated : Obligations.NextPcIsAsTabulated := by
  intro s t keys rand8 i hrun hpc hdecode hstep hhalted
  rw [stepEvent_of_decoded keys rand8 hrun hpc hdecode] at hstep
  cases i
  case jp nnn => cases hstep; exact zextNnn_toNat nnn
  case jpV x nnn => cases hstep; exact jumpOffset_toNat _ nnn
  case call nnn =>
    rcases exec_call_cases hstep with ⟨-, rfl⟩ | ⟨-, -, rfl⟩
    · exact absurd hhalted nofun
    · exact zextNnn_toNat nnn
  case ret =>
    rcases exec_ret_cases hstep with ⟨-, rfl⟩ | ⟨w, -, hentry, rfl⟩
    · exact absurd hhalted nofun
    · exact hentry
  case seImm | seReg => cases hstep; exact skipIf_advance_pc (s.sample keys rand8) beq_iff_eq
  case sneImm | sneReg => cases hstep; exact skipIf_advance_pc (s.sample keys rand8) bne_iff_ne
  case skp x =>
    rcases exec_skp_cases hstep with ⟨-, rfl⟩ | ⟨-, rfl⟩
    · exact absurd hhalted nofun
    · exact skipIf_advance_pc (s.sample keys rand8) Iff.rfl
  case sknp x =>
    rcases exec_sknp_cases hstep with ⟨-, rfl⟩ | ⟨-, rfl⟩
    · exact absurd hhalted nofun
    · exact skipIf_advance_pc (s.sample keys rand8) (Bool.not_eq_true' _).to_iff
  case ldVK x =>
    rcases exec_ldVK_cases hstep with ⟨hnone, rfl⟩ | ⟨k, hkeys, -, rfl⟩
    · exact (rewind_advance_pc (s.sample keys rand8)).trans (if_pos hnone).symm
    · exact (if_neg hkeys).symm
  all_goals exact exec_pc_eq hstep id

/-! ### Precise faults (R226, R230) -/

/-- Only a fault halts. -/
theorem exec_halts_by_fault {i : Instr} {s t : State} (hexec : exec i s = .next t) (hrun : s.halted = false)
    (hhalted : t.halted = true) : ∃ c a, c ≠ .fetchOutOfBounds ∧ t = s.raiseFrom i c a := by
  cases exec_effect hexec with
  | fault c a hc ha => exact ⟨c, a, hc.1, rfl⟩
  | _ => exact absurd (hhalted.symm.trans hrun) nofun

/-- Settles O15: the fetch's fault, the decoder's, and the four of execute, whose word is the one fetched (R90). -/
theorem faultsArePrecise : Obligations.FaultsArePrecise := by
  intro s t keys rand8 hrun hstep hhalted
  rw [stepEvent_of_running keys rand8 hrun] at hstep
  rcases runStep_cases hstep with ⟨-, rfl⟩ | ⟨-, -, rfl⟩ | ⟨i, -, hdecode, hexec⟩
  · exact ⟨⟨.fetchOutOfBounds, none, s.pc, none⟩, rfl, rfl, rfl, rfl⟩
  · exact ⟨⟨.unknownInstruction, some s.wordAtPc, s.pc, none⟩, rfl, rfl, rfl, rfl⟩
  · obtain ⟨c, a, hc, rfl⟩ := exec_halts_by_fault hexec hrun hhalted
    obtain ⟨-, hword⟩ := encodeOfDecodeIsTheWord s.wordAtPc i hdecode
    refine ⟨⟨c, some (encode i), s.pc + 2 - 2, a⟩, rfl, BitVec.add_sub_cancel s.pc 2, ?_, ?_⟩
    · exact (if_neg hc).symm
    · rw [if_neg hc, hword]

/-! ### The key wait (R204) -/

/-- A fetch depends on `pc`, memory and parameters only. -/
theorem fetch_congr {s t : State} (hpc : t.pc = s.pc) (hmem : t.mem = s.mem) (hparams : t.params = s.params) :
    t.fetch = s.fetch := by
  simp only [State.fetch, State.wordAtPc, State.readByte, hpc, hmem, hparams]

/-- Settles O41: with no key held the rewind undoes the advance and nothing that a fetch reads has changed; with keys
held `V[x]` is the number of one. -/
theorem keyWaitRefetchesTheSameWord : Obligations.KeyWaitRefetchesTheSameWord := by
  intro s x keys rand8 hrun hpc hdecode
  rw [stepEvent_of_decoded keys rand8 hrun hpc hdecode]
  constructor
  · intro hnone
    have hrewound := rewind_advance_pc (s.sample keys rand8)
    exact ⟨_, exec_ldVK_of_no_key x hnone, hrun, hrewound, rfl, fetch_congr hrewound rfl rfl⟩
  · intro hkeys
    obtain ⟨k, hlowest⟩ := exists_lowestKey (s := (s.sample keys rand8).advance) hkeys
    obtain ⟨hk, hheld, hmin⟩ := (State.lowestKey_eq_some _ k).1 hlowest
    refine ⟨_, exec_ldVK_of_lowest_key x hk hheld hmin, hrun, rfl, ?_⟩
    have hbyte : k % 256 = k := Nat.mod_eq_of_lt (by omega)
    rw [State.reg_setReg_self, BitVec.toNat_ofNat, hbyte]
    exact hheld

end Sys2Proof
end

section
/-! PROOFS. Single instructions on memory, framebuffer and keys (44_index_memory.md, 45_display.md,
46_timers_keys_random.md): both sides of each check, and what stores leave for loads and fetches to read. -/

namespace Sys2Proof

open Sys2Proof.Machine Sys2Proof.Statements

/-! ### FX1E (R171, D9) -/

/-- Settles O28: one write of VF, one of `I`, both from the state before. -/
theorem addToIndexWritesFlagAndI : Obligations.AddToIndexWritesFlagAndI := by
  intro s x
  refine ⟨_, rfl, rfl, BitVec.toNat_ofNat _ 16, s.reg_setReg_self vF _, fun k hk => ?_⟩
  exact (s.reg_setReg vF _ k).trans (if_neg hk.symm)

/-! ### EX9E and EXA1 (R201, R202, D6) -/

theorem encode_skp (x : RegIdx) : encode (.skp x) = BitVec.ofNat 16 (0xE09E + 256 * x.val) := by
  rw [Nat.mul_comm]; rfl

theorem encode_sknp (x : RegIdx) : encode (.sknp x) = BitVec.ofNat 16 (0xE0A1 + 256 * x.val) := by
  rw [Nat.mul_comm]; rfl

/-- Settles O39: the two sides of each test's bound on the key number. -/
theorem keySkipsTestTheSnapshotOrFault : Obligations.KeySkipsTestTheSnapshotOrFault := by
  intro s x
  refine ⟨fun hkey => ⟨?_, ?_⟩, fun hpast => ⟨?_, ?_⟩⟩
  · rw [exec_skp_of_key hkey, skipIf_eq_setPc]
    rfl
  · rw [exec_sknp_of_key hkey, skipIf_eq_setPc]
    simp only [Bool.not_eq_true']
    rfl
  · rw [exec_skp_of_past hpast, raiseFrom_eq_haltedWith, encode_skp]
  · rw [exec_sknp_of_past hpast, raiseFrom_eq_haltedWith, encode_sknp]

/-! ### DXYN (R191, R193, D5, D19) -/

theorem exec_drw_of_past {s : State} (x y : RegIdx) {n : BitVec 4} (hrows : n ≠ 0)
    (hpast : 4096 ≤ s.i.toNat + n.toNat - 1) : exec (.drw x y n) s =
      .next (s.raiseFrom (.drw x y n) .dataAccessOutOfBounds (some (max s.i.toNat 4096))) := by
  have hpos : 1 ≤ n.toNat := Nat.one_le_iff_ne_zero.2 fun h0 => hrows (BitVec.eq_of_toNat_eq h0)
  have hfault : s.dataFault n.toNat = some (max s.i.toNat 4096) :=
    (s.dataFault_eq_some n.toNat _).2 ⟨⟨hpos, by omega⟩, rfl⟩
  simp only [exec, execDrw, hfault]

theorem encode_drw (x y : RegIdx) (n : BitVec 4) :
    encode (.drw x y n) = BitVec.ofNat 16 (0xD000 + 256 * x.val + 16 * y.val + n.toNat) := by
  rw [Nat.mul_comm 256, Nat.mul_comm 16, Nat.add_assoc, Nat.add_assoc, ← Nat.add_assoc (x.val * 256)]
  rfl

/-- Settles O37: the failing side of DXYN's bounds check. -/
theorem drawPastMemoryFaults : Obligations.DrawPastMemoryFaults := by
  intro s x y n hrows hpast
  rw [exec_drw_of_past x y hrows hpast, raiseFrom_eq_haltedWith, encode_drw]

theorem drawSprite_reg_vF (s : State) (x y : RegIdx) (n : Nat) :
    (s.drawSprite x y n).reg 15 = 0 ∨ (s.drawSprite x y n).reg 15 = 1 := by
  obtain ⟨c, hflag⟩ : ∃ c, (s.drawSprite x y n).reg 15 = flagByte c := ⟨_, State.reg_setReg_self _ vF _⟩
  rw [hflag]
  cases c
  · exact .inl rfl
  · exact .inr rfl

/-- Settles O35: the passing side, pixel by pixel; the draw's one register write is VF. -/
theorem drawXorsTheSpriteAndFlagsCollision : Obligations.DrawXorsTheSpriteAndFlagsCollision := by
  intro s x y n hfit
  refine ⟨_, exec_drw_of_fits x y hfit, rfl, fun py px hpy hpx => drawSprite_pixel s x y _ hpy hpx,
    drawSprite_reg_vF s x y _, drawSprite_collides_iff s x y _, fun k hk => ?_⟩
  exact (State.reg_setReg _ vF _ k).trans (if_neg hk.symm)

/-! ### FX55 and FX65 (R64, R177) -/

section
variable {s t : State} {x : RegIdx} (hfit : s.i.toNat + x.val < 4096)
include hfit

/-- What FX55 leaves to be read: the run in place, every other byte as before (R175). -/
theorem readByte_of_ldMemV (hstore : exec (.ldMemV x) s = .next t) :
    (∀ k : RegIdx, k ≤ x → t.readByte (s.i.toNat + k.val) = s.reg k) ∧
      ∀ a, a < s.i.toNat ∨ s.i.toNat + x.val < a → t.readByte a = s.readByte a := by
  obtain ⟨u, hu, -, hrun, hrest⟩ := (registerRunStoredOrFault s x).1 hfit
  cases hu.symm.trans hstore
  exact ⟨hrun, hrest⟩

/-- What FX65 leaves in the registers of its run, and that it changes registers alone (R176). -/
theorem reg_of_ldVMem (hload : exec (.ldVMem x) s = .next t) :
    t = { s with v := t.v } ∧ ∀ k : RegIdx, k ≤ x → t.reg k = s.readByte (s.i.toNat + k.val) := by
  obtain ⟨u, hu, hframe, hrun, -⟩ := (registerRunLoadedOrFault s x).1 hfit
  cases hu.symm.trans hload
  exact ⟨hframe, hrun⟩

/-- FX55 keeps memory canonical, since its run lies within it. -/
theorem wf_of_ldMemV (hstore : exec (.ldMemV x) s = .next t) (hwf : Memory.wf s.params.fontTable s.mem = true) :
    t.params = s.params ∧ Memory.wf s.params.fontTable t.mem = true := by
  have hlen : s.i.toNat + (s.regRun x).length ≤ 4096 := by rwa [State.length_regRun]
  cases (exec_ldMemV_of_fits x hfit).symm.trans hstore
  exact ⟨rfl, Memory.wf_writeList s.params.fontTable (s.regRun x) s.mem s.i.toNat hlen hwf⟩

end

/-- Settles O33: both bytes of the fetch lie in the stored run. -/
theorem storedBytesAreFetched : Obligations.StoredBytesAreFetched := by
  intro s t x k j hfit hj hjx hexec
  obtain ⟨hrun, -⟩ := readByte_of_ldMemV hfit hexec
  have hlast : j.val ≤ x.val := hjx
  have hkx : k ≤ x := Fin.le_def.2 (by omega)
  have hpc : (BitVec.ofNat 16 (s.i.toNat + k.val)).toNat = s.i.toNat + k.val := by
    rw [BitVec.toNat_ofNat, Nat.mod_eq_of_lt (by omega)]
  refine ⟨_, fetch_eq_wordAtPc (hpc.trans_le (by omega)), ?_⟩
  rw [← hrun k hkx, ← hrun j hjx, wordAtPc_toNat, hpc, hj]
  rfl

/-- Storing back the run that was loaded changes no byte. -/
theorem readByte_of_load_then_store {s t w : State} {x : RegIdx} (hfit : s.i.toNat + x.val < 4096)
    (hload : exec (.ldVMem x) s = .next t) (hstore : exec (.ldMemV x) t = .next w) (a : Nat) :
    w.readByte a = s.readByte a := by
  obtain ⟨hframe, hloaded⟩ := reg_of_ldVMem hfit hload
  have hi : t.i = s.i := by rw [hframe]
  obtain ⟨hstored, hkept⟩ := readByte_of_ldMemV (hi ▸ hfit) hstore
  rw [hi] at hstored hkept
  by_cases ha : s.i.toNat ≤ a ∧ a ≤ s.i.toNat + x.val
  · obtain ⟨d, rfl⟩ := Nat.exists_eq_add_of_le ha.1
    have hd : (⟨d, by omega⟩ : RegIdx) ≤ x := Fin.le_def.2 (show d ≤ x.val by omega)
    exact (hstored _ hd).trans (hloaded _ hd)
  · rw [hkept a (by omega), hframe]
    rfl

/-- States with the same font whose canonical memories read alike have the same memory. -/
theorem mem_eq_of_readByte_eq {s t : State} (hparams : t.params = s.params)
    (ht : Memory.wf s.params.fontTable t.mem = true) (hs : Memory.wf s.params.fontTable s.mem = true)
    (hread : ∀ a, t.readByte a = s.readByte a) : t.mem = s.mem := by
  simp only [State.readByte, hparams] at hread
  exact Memory.eq_of_read_eq s.params.fontTable t.mem s.mem ht hs hread

/-- Settles O32: a load reads the bytes the store left; a store of loaded bytes leaves every byte, and canonical
memories that read alike are the same. -/
theorem storeAndLoadRoundTrip : Obligations.StoreAndLoadRoundTrip := by
  intro s t u w x hfit
  constructor
  · intro hstore hi hmem hparams hload k hk
    obtain ⟨hstored, -⟩ := readByte_of_ldMemV hfit hstore
    have hti : t.i = s.i := by
      cases (exec_ldMemV_of_fits x hfit).symm.trans hstore
      rfl
    have hui : u.i = s.i := hi.trans hti
    have hread : ∀ a, u.readByte a = t.readByte a := fun a => by simp only [State.readByte, hmem, hparams]
    obtain ⟨-, hloaded⟩ := reg_of_ldVMem (hui ▸ hfit) hload
    rw [hloaded k hk, hread, hui, hstored k hk]
  · intro hwf hload hstore
    obtain ⟨hframe, -⟩ := reg_of_ldVMem hfit hload
    have hi : t.i = s.i := by rw [hframe]
    have hmem : t.mem = s.mem := by rw [hframe]
    have hparams : t.params = s.params := by rw [hframe]
    obtain ⟨hwparams, hwwf⟩ := wf_of_ldMemV (hi ▸ hfit) hstore (by rwa [hparams, hmem])
    exact mem_eq_of_readByte_eq (hwparams.trans hparams) (hparams ▸ hwwf) hwf
      (readByte_of_load_then_store hfit hload hstore)

end Sys2Proof
end

section
/-! PROOFS. `TimerTick` and `Reset` (60_exceptions.md R236, 70_reset_and_hazards.md R250): what each leaves in every
part of the state. -/

namespace Sys2Proof

open Sys2Proof.Machine

/-! ### `TimerTick` (R236) -/

theorem tickTimer_toNat (b : Byte) : (tickTimer b).toNat = b.toNat - 1 := by
  have hbyte : b.toNat < 256 := b.isLt
  unfold tickTimer
  split
  · rw [BitVec.toNat_sub]
    simp only [BitVec.reduceToNat]
    omega
  · omega

/-- Settles O43: a running machine's tick is one tick of each timer. -/
theorem tickDecrementsBothTimersTowardZero : Obligations.TickDecrementsBothTimersTowardZero := by
  intro s
  by_cases hhalted : s.halted = true
  · have hsame : s.timerTick = s := if_pos hhalted
    exact ⟨s, congrArg Host.Outcome.next hsame, rfl, fun hrun => absurd (hhalted.symm.trans hrun) nofun, fun _ => rfl⟩
  · have htick : s.timerTick = s.runTicks 1 := if_neg hhalted
    exact ⟨s.runTicks 1, congrArg Host.Outcome.next htick, rfl,
      fun _ => ⟨tickTimer_toNat s.dt, tickTimer_toNat s.st⟩, fun h => absurd h hhalted⟩

/-! ### Memory after `Reset` (R250, D13, D14) -/

theorem unlisted_font (font : Config.FontTable) (d : Fin 16) (r : Fin 5) :
    Memory.unlisted font (0x050 + 5 * d.val + r.val) = font[d][r] := by
  have h1 : (0x050 + 5 * d.val + r.val - 0x050) / 5 = d.val := by omega
  have h2 : (0x050 + 5 * d.val + r.val - 0x050) % 5 = r.val := by omega
  rw [Memory.unlisted, dif_pos (by omega)]
  simp only [h1, h2]
  rfl

theorem unlisted_outside_font (font : Config.FontTable) {a : Nat} (ha : a < 0x050 ∨ 0x0A0 ≤ a) :
    Memory.unlisted font a = 0 := by
  rw [Memory.unlisted, dif_neg (by omega)]

theorem resetWith_reg (p : Config.Params) (k : RegIdx) : (State.resetWith p).reg k = 0 := by
  simp [State.reg, State.resetWith]

/-- Settles O44: the fields are the reset state's; a byte of memory is the image's where the image reaches it, else the
font's or zero. -/
theorem resetGivesTheStatedState : Obligations.ResetGivesTheStatedState := by
  refine ⟨rfl, fun s image hlen => ?_⟩
  refine ⟨_, event_reset hlen, rfl, fun k => resetWith_reg s.params k, rfl, rfl, rfl, rfl, rfl,
    fun y x _ _ => Framebuffer.get_blank y x, rfl, rfl, fun d r => ?_, fun k b hk => ?_, fun a ha => ?_⟩
  · exact (readByte_writeBytes_outside (State.resetWith s.params) 0x200 image (by omega)).trans (unlisted_font _ d r)
  · obtain ⟨hkl, rfl⟩ := List.getElem?_eq_some_iff.1 hk
    refine (readByte_writeBytes_inside (State.resetWith s.params) 0x200 image hkl).trans ?_
    simp [hkl]
  · exact (readByte_writeBytes_outside (State.resetWith s.params) 0x200 image (by omega)).trans
      (unlisted_outside_font _ (by omega))

end Sys2Proof
end
